-- ==== Sys2Proof/Word.lean ====
section
/-! DEFINITION. The word types of the HRC block: registers are 32 bits wide (10_state.md section 2), buffers
and streams are sequences of bytes (00_scope.md R10), a logical bit sequence is a list of Booleans. -/

namespace Sys2Proof

/-- A byte, 0..255 (R10). -/
abbrev Byte := BitVec 8

/-- A 32-bit register or table word (R9). -/
abbrev Word := BitVec 32

/-- A byte sequence (R10). -/
abbrev Bytes := List Byte

/-- A logical sequence of bits, first bit first; `true` is DOC's symbol '1' (R14). -/
abbrev Bits := List Bool

/-- The bus offset of a transaction: 26 bits (20_memory.md R60). -/
abbrev Addr := BitVec 26

/-- A table with one entry for each byte value, entry `b` being `f b` (R35, R37). -/
def tabulate {α : Type} (f : Nat → α) : Vector α 256 :=
  ⟨⟨(List.range 256).map f⟩, by simp⟩

end Sys2Proof
end

