-- ==== Sys2Proof/Syntax.lean ====
section
/-! DEFINITION. The commands of the block: one constructor for each row of spec/opcode_table.json
(30_encoding.md R92). Every CMD word has the field METHOD (R90), so every constructor carries it; COMPRESS is the
one command that reads it (R91, R93 (b)). -/

namespace Sys2Proof

/-- A command with the METHOD field of its CMD word. -/
inductive Instr where
  /-- 0x01, R133 -/
  | pack (method : BitVec 2)
  /-- 0x02, R134 -/
  | unpack (method : BitVec 2)
  /-- 0x10, R160 -/
  | hufBuild (method : BitVec 2)
  /-- 0x11, R161 -/
  | hufCodes (method : BitVec 2)
  /-- 0x12, R162 -/
  | hufSerialize (method : BitVec 2)
  /-- 0x13, R163 -/
  | hufDeserialize (method : BitVec 2)
  /-- 0x14, R184 -/
  | hufEncode (method : BitVec 2)
  /-- 0x15, R185 -/
  | hufDecode (method : BitVec 2)
  /-- 0x20, R210 -/
  | rleEncodeChunk (method : BitVec 2)
  /-- 0x21, R211 -/
  | rleDecodeChunk (method : BitVec 2)
  /-- 0x22, R212 -/
  | rleEncode (method : BitVec 2)
  /-- 0x23, R213 -/
  | rleDecode (method : BitVec 2)
  /-- 0x30, R233 -/
  | compress (method : BitVec 2)
  /-- 0x31, R234 -/
  | extract (method : BitVec 2)
deriving DecidableEq, Repr

end Sys2Proof
end

