-- ==== Sys2Proof/Config.lean ====
section
/-! DEFINITION. What an implementation fixes (the parameters of 00_scope.md R5), the constants of the design
(R6-R8, R22), and the FREE VALUES: constants without a body, one for each kind of value the spec leaves open.
No proof can see what a free value is, so a theorem about one holds whatever it is (log 2). -/

namespace Sys2Proof

/-- The three byte buffers (10_state.md R38). -/
inductive Buffer where
  | src | dst | ext
deriving DecidableEq, Repr

/-- The implementation parameters of R5. Their legal ranges are `Params.legal` (WellFormed.lean). -/
structure Params where
  /-- bytes in SRC, 1 .. 2^24 -/
  srcCap : Nat
  /-- bytes in DST, 1 .. 2^24 -/
  dstCap : Nat
  /-- bytes in EXT, 0 .. 256 -/
  extCap : Nat
deriving DecidableEq, Repr

namespace Config

/-- The parameter values that 95_test_vectors.md uses (R5, last column). DESIGN CHOICE: `State.reset` takes them;
every statement over all states covers every other choice (log 1). -/
def vectorParams : Params := ⟨65536, 65536, 256⟩

/-- `CHUNK` (R6). -/
def chunk : Nat := 1000

/-- `RUN_CAP` = 10^9 - 1 (R7; 90_conflicts.md C1). -/
def runCap : Nat := 999999999

/-- `NODE_CAP` (R8). -/
def nodeCap : Nat := 511

/-- The constant of the ID register (R22). -/
def idWord : Word := 0x48430007#32

/-- FREE VALUE: byte `off` of buffer `w` where the rules leave its content unspecified, at draw `d` (R42, R43). -/
opaque freeByte : (w : Buffer) → (d off : Nat) → Byte

/-- FREE VALUE: entry `b` of FREQ where the rules leave it unspecified, at draw `d` (R41, R42). -/
opaque freeFreq : (d b : Nat) → Word

/-- FREE VALUE: CODE_LEN[b] where the rules leave it unspecified, at draw `d` (R41, R42). -/
opaque freeCodeLen : (d b : Nat) → Byte

/-- FREE VALUE: CODE_BITS[b] where the rules leave it unspecified, at draw `d` (R41, R42). -/
opaque freeCodeBits : (d b : Nat) → BitVec 256

/-- FREE VALUE: the data of a bus read that the rules answer with any value, at draw `d` (R43, R61, R70). -/
opaque freeRead : (d : Nat) → Word

/-- FREQ with unspecified contents, at draw `d`. -/
def freeFreqTable (d : Nat) : Vector Word 256 := tabulate (freeFreq d)

/-- CODE_LEN with unspecified contents, at draw `d`. -/
def freeCodeLenTable (d : Nat) : Vector Byte 256 := tabulate (freeCodeLen d)

/-- CODE_BITS with unspecified contents, at draw `d`. -/
def freeCodeBitsTable (d : Nat) : Vector (BitVec 256) 256 := tabulate (freeCodeBits d)

end Config

end Sys2Proof
end

