-- ==== Sys2Proof/WellFormed.lean ====
section
/-! DEFINITION. The checks of well-formedness. METHOD is a 2-bit field and each of its four values is a legal
encoding (30_encoding.md R93 (b)), so every `Instr` is well formed by its type; what can be ill formed is a CMD word
(an OPCODE outside R92, a reserved bit set) and a choice of parameters (00_scope.md R5). -/

namespace Sys2Proof

/-- The OPCODE values of the map of R92. -/
def legalOpcode (op : BitVec 8) : Bool :=
  op == 0x01#8 || op == 0x02#8 || (0x10#8 ≤ op && op ≤ 0x15#8) || (0x20#8 ≤ op && op ≤ 0x23#8)
    || op == 0x30#8 || op == 0x31#8

/-- CMD[31:10] are 0, as the register always holds them (R90). -/
def reservedBitsZero (w : Word) : Bool := w &&& 0xFFFFFC00#32 == 0#32

/-- A CMD word that is a command of R92. -/
def wellFormedWord (w : Word) : Bool := legalOpcode (w.extractLsb' 0 8) && reservedBitsZero w

/-- The legal ranges of R5. -/
def Params.legal (p : Params) : Bool :=
  decide (1 ≤ p.srcCap) && decide (p.srcCap ≤ 2 ^ 24) && decide (1 ≤ p.dstCap) && decide (p.dstCap ≤ 2 ^ 24)
    && decide (p.extCap ≤ 256)

end Sys2Proof
end

