-- ==== Sys2Proof/Decode.lean ====
section
/-! DEFINITION. The decoder of the CMD word (30_encoding.md R90, R92, R94), total on every 32-bit word, and the
encoder. A command has the fixed length of one word (R90). -/

namespace Sys2Proof

/-- Why a CMD word is no command: its OPCODE is not in R92 (R93 (a)). -/
inductive DecodeError where
  | illegalOpcode (op : BitVec 8)
deriving DecidableEq, Repr

/-- One row of the opcode map: the OPCODE and the command it selects, given METHOD. -/
structure OpcodeRow where
  opcode : BitVec 8
  command : BitVec 2 → Instr

/-- The complete opcode map (R92). -/
def opcodeTable : List OpcodeRow :=
  [ ⟨0x01#8, .pack⟩,
    ⟨0x02#8, .unpack⟩,
    ⟨0x10#8, .hufBuild⟩,
    ⟨0x11#8, .hufCodes⟩,
    ⟨0x12#8, .hufSerialize⟩,
    ⟨0x13#8, .hufDeserialize⟩,
    ⟨0x14#8, .hufEncode⟩,
    ⟨0x15#8, .hufDecode⟩,
    ⟨0x20#8, .rleEncodeChunk⟩,
    ⟨0x21#8, .rleDecodeChunk⟩,
    ⟨0x22#8, .rleEncode⟩,
    ⟨0x23#8, .rleDecode⟩,
    ⟨0x30#8, .compress⟩,
    ⟨0x31#8, .extract⟩ ]

/-- OPCODE = CMD[7:0] (R90). -/
def opcodeField (w : Word) : BitVec 8 := w.extractLsb' 0 8

/-- METHOD = CMD[9:8] (R90). -/
def methodField (w : Word) : BitVec 2 := w.extractLsb' 8 2

/-- `Decode` (R94): the command of a CMD word. METHOD plays no part in the selection (R92); CMD[31:10] has no
illegal encoding (R93 (c)). -/
def decode (w : Word) : Except DecodeError Instr :=
  match opcodeTable.find? (fun row => row.opcode == opcodeField w) with
  | some row => .ok (row.command (methodField w))
  | none => .error (.illegalOpcode (opcodeField w))

/-- The OPCODE of a command (R92). -/
def opcodeOf : Instr → BitVec 8
  | .pack _ => 0x01#8
  | .unpack _ => 0x02#8
  | .hufBuild _ => 0x10#8
  | .hufCodes _ => 0x11#8
  | .hufSerialize _ => 0x12#8
  | .hufDeserialize _ => 0x13#8
  | .hufEncode _ => 0x14#8
  | .hufDecode _ => 0x15#8
  | .rleEncodeChunk _ => 0x20#8
  | .rleDecodeChunk _ => 0x21#8
  | .rleEncode _ => 0x22#8
  | .rleDecode _ => 0x23#8
  | .compress _ => 0x30#8
  | .extract _ => 0x31#8

/-- The METHOD field of a command. -/
def methodOf : Instr → BitVec 2
  | .pack m => m
  | .unpack m => m
  | .hufBuild m => m
  | .hufCodes m => m
  | .hufSerialize m => m
  | .hufDeserialize m => m
  | .hufEncode m => m
  | .hufDecode m => m
  | .rleEncodeChunk m => m
  | .rleDecodeChunk m => m
  | .rleEncode m => m
  | .rleDecode m => m
  | .compress m => m
  | .extract m => m

/-- The CMD word of a command: CMD[31:10] = 0, METHOD, OPCODE (R90). -/
def encode (i : Instr) : Word := (0#22 ++ methodOf i) ++ opcodeOf i

/-- The command the decoder reads from an opcode-table row's `nbits` bits `w`; the bits above them are 0. The CMD word
is one 32-bit register without byte lanes (20_memory.md R63), so bit 0 of `w` is CMD bit 0. -/
def decodeTableWord (nbits w : Nat) : Option Instr :=
  (decode (BitVec.ofNat 32 (w % 2 ^ nbits))).toOption

end Sys2Proof
end

