-- ==== Sys2Proof/Machine/State.lean ====
section
/-! DEFINITION. The state of the block as plain data: everything 10_state.md gives it, the level of the reset input
(70_reset_and_hazards.md R280), the parameters (00_scope.md R5), and the model's own fields (the events still to come,
the last bus answer, the draw counter). Also the types the fields are made of, the two reason types of a step, and
the state after reset (R42). -/

namespace Sys2Proof.Machine

/-- SEQ (R21). -/
inductive Seq where
  | idle | busy
deriving DecidableEq, Repr

/-- A tree value (R11): `Leaf(b)`, or `Node(f, l, r)` with a 32-bit frequency and the left and right child. -/
inductive CodeTree where
  | leaf (b : Byte)
  | node (f : Word) (l r : CodeTree)
deriving DecidableEq, Repr

/-- A byte memory: (offset, byte) pairs, offsets strictly rising, listing exactly the bytes whose content the rules
specify. An unlisted byte has no specified content (log 4). -/
abbrev Memory := List Host.Cell

/-- The error classes of R251. -/
inductive ErrClass where
  | config | format | capacity | command
deriving DecidableEq, Repr

/-- The causes of the table of R252, in its order. -/
inductive Cause where
  | cfgUnitSize | cfgMethod | cfgExt | cfgChunkLen
  | fmtPad | fmtBitSymbol | fmtTreeTruncated | fmtTreeToken | fmtTreeTrailing | fmtTreeLeafRoot | fmtTreeEmpty
  | fmtBitsTruncated | fmtHeaderLines | fmtTag | fmtNumber | fmtRleLiterals
  | capSrc | capDst | capTree | capExt
  | cmdIllegal
deriving DecidableEq, Repr

/-- The size of a bus transaction: 1, 2 or 4 bytes (R61). -/
inductive Size where
  | one | two | four
deriving DecidableEq, Repr

/-- The answer of a transaction (R61). -/
inductive Resp where
  | okay | error
deriving DecidableEq, Repr

/-- What the bus answers: data and response for a read, a response for a write (R61). -/
inductive BusAnswer where
  | read (data : Word) (resp : Resp)
  | write (resp : Resp)
deriving DecidableEq, Repr

/-- The registers of the map (20_memory.md R62), in its order. -/
inductive Reg where
  | id | ctrl | status | cmd | errcode | srcLen | dstLen | unitSize | extLen | pad | nruns | efficiency | nleaf
deriving DecidableEq, Repr

/-- What an admitted access reaches: a register, an entry of a table window, or a byte of a buffer (R62). -/
inductive Loc where
  | reg (r : Reg)
  | freq (b : Byte)
  | codeLen (b : Byte)
  | codeBits (b : Byte) (k : BitVec 3)
  | buffer (w : Buffer) (off : Nat)
deriving DecidableEq, Repr

/-- What happens next in the one total order of host transactions, resets and turns of the block (R68, R280, R97). -/
inductive Event where
  /-- the host reads -/
  | read (addr : Addr) (size : Size)
  /-- the host writes the low bytes of `data` -/
  | write (addr : Addr) (size : Size) (data : Word)
  /-- the block has its turn: it completes the command in flight, if there is one -/
  | block
  /-- the platform drives the reset input to `level`; `true` is asserted -/
  | resetInput (level : Bool)
deriving DecidableEq, Repr

/-- Why the machine stops. No command stops; every error of a command is an effect (R250). -/
inductive Fault where
  /-- Raised by a bus transaction while the reset input is asserted: "the bus port gives no guaranteed response. A
  host must not access the block until the platform releases reset" (R280). Safe: the model stops where the hardware
  may answer anything (log 10). -/
  | busInReset
deriving DecidableEq, Repr

/-- Why a step has no meaning. -/
inductive Refusal where
  /-- Raised by an arm of `exec` whose command has no meaning yet. Safe: nothing is claimed of it. No arm raises it. -/
  | notModelled (mnemonic : String)
deriving DecidableEq, Repr

structure State where
  /-- SRC_CAP, DST_CAP, EXT_CAP (R5); no step changes them -/
  params : Params
  /-- SEQ (R21); STATUS.BUSY -/
  seq : Seq
  /-- CTRL.IE (R23) -/
  ie : Bool
  /-- STATUS.DONE (R24) -/
  done : Bool
  /-- STATUS.ERR (R24) -/
  err : Bool
  /-- STATUS.FREQ_VALID (R24) -/
  freqValid : Bool
  /-- STATUS.CODES_VALID (R24) -/
  codesValid : Bool
  /-- CMD (R25) -/
  cmd : Word
  /-- ERRCODE (R26) -/
  errcode : Word
  /-- SRC_LEN (R27) -/
  srcLen : Word
  /-- DST_LEN (R28) -/
  dstLen : Word
  /-- UNIT_SIZE (R29) -/
  unitSize : Word
  /-- EXT_LEN (R30) -/
  extLen : Word
  /-- PAD (R31) -/
  pad : Word
  /-- NRUNS (R32) -/
  nruns : Word
  /-- EFFICIENCY (R33), two's complement -/
  efficiency : Word
  /-- NLEAF (R34) -/
  nleaf : Word
  /-- FREQ (R35) -/
  freq : Vector Word 256
  /-- TREE (R36); none exactly when STATUS.TREE_VALID = 0 -/
  tree : Option CodeTree
  /-- CODE_LEN (R37) -/
  codeLen : Vector Byte 256
  /-- CODE_BITS (R37); code bit i is bit i -/
  codeBits : Vector (BitVec 256) 256
  /-- SRC (R38) -/
  src : Memory
  /-- DST (R38) -/
  dst : Memory
  /-- EXT (R38) -/
  ext : Memory
  /-- the reset input is asserted (R280) -/
  resetIn : Bool
  /-- MODEL: the events still to come, oldest first (log 7) -/
  events : List Event
  /-- MODEL: the answer of the last bus transaction (log 8) -/
  lastResp : Option BusAnswer
  /-- MODEL: the draw counter the free values are applied to (log 2) -/
  draws : Nat
deriving DecidableEq, Repr

/-- The block with parameters `p` right after a reset (R42), its unspecified contents being those of draw `d`; the
next draw is `d + 1`. -/
def State.afterReset (p : Params) (d : Nat) : State where
  params := p
  seq := .idle
  ie := false
  done := false
  err := false
  freqValid := false
  codesValid := false
  cmd := 0
  errcode := 0
  srcLen := 0
  dstLen := 0
  unitSize := 1
  extLen := 0
  pad := 0
  nruns := 0
  efficiency := 0
  nleaf := 0
  freq := Config.freeFreqTable d
  tree := none
  codeLen := Config.freeCodeLenTable d
  codeBits := Config.freeCodeBitsTable d
  src := []
  dst := []
  ext := []
  resetIn := false
  events := []
  lastResp := none
  draws := d + 1

/-- The machine right after reset (R42, R280), the reset input released, with the parameters of the test vectors. -/
def State.reset : State := State.afterReset Config.vectorParams 0

end Sys2Proof.Machine
end

