-- ==== Sys2Proof/Machine/Errors.lean ====
section
/-! DEFINITION. The error codes of 60_exceptions.md R251 and R252 and the ERRCODE word (10_state.md R26). -/

namespace Sys2Proof.Machine

/-- ERRCODE.CLASS (R251). -/
def ErrClass.code : ErrClass → BitVec 3
  | .config => 1#3
  | .format => 2#3
  | .capacity => 3#3
  | .command => 4#3

/-- The class of a cause (R252). -/
def Cause.errClass : Cause → ErrClass
  | .cfgUnitSize => .config
  | .cfgMethod => .config
  | .cfgExt => .config
  | .cfgChunkLen => .config
  | .fmtPad => .format
  | .fmtBitSymbol => .format
  | .fmtTreeTruncated => .format
  | .fmtTreeToken => .format
  | .fmtTreeTrailing => .format
  | .fmtTreeLeafRoot => .format
  | .fmtTreeEmpty => .format
  | .fmtBitsTruncated => .format
  | .fmtHeaderLines => .format
  | .fmtTag => .format
  | .fmtNumber => .format
  | .fmtRleLiterals => .format
  | .capSrc => .capacity
  | .capDst => .capacity
  | .capTree => .capacity
  | .capExt => .capacity
  | .cmdIllegal => .command

/-- ERRCODE.CAUSE (R252). -/
def Cause.code : Cause → BitVec 8
  | .cfgUnitSize => 0x01#8
  | .cfgMethod => 0x02#8
  | .cfgExt => 0x03#8
  | .cfgChunkLen => 0x04#8
  | .fmtPad => 0x10#8
  | .fmtBitSymbol => 0x11#8
  | .fmtTreeTruncated => 0x12#8
  | .fmtTreeToken => 0x13#8
  | .fmtTreeTrailing => 0x14#8
  | .fmtTreeLeafRoot => 0x15#8
  | .fmtTreeEmpty => 0x16#8
  | .fmtBitsTruncated => 0x18#8
  | .fmtHeaderLines => 0x19#8
  | .fmtTag => 0x1A#8
  | .fmtNumber => 0x1B#8
  | .fmtRleLiterals => 0x1C#8
  | .capSrc => 0x20#8
  | .capDst => 0x21#8
  | .capTree => 0x22#8
  | .capExt => 0x23#8
  | .cmdIllegal => 0x30#8

/-- The ERRCODE word of a cause: `zext_32(class) << 8 | zext_32(cause)` (R97, R26). -/
def Cause.word (c : Cause) : Word :=
  (c.errClass.code.setWidth 32 <<< 8) ||| c.code.setWidth 32

end Sys2Proof.Machine
end

