-- ==== Sys2Proof/Machine/Formats.lean ====
section
/-! DEFINITION. The byte-level formats the commands share: ASCII values (00_scope.md R12), bit symbols (R14), decimal
fields (R13, 30_encoding.md R107, R109), line splitting (R108) and the counts line (43_rle.md R203). -/

namespace Sys2Proof.Machine

/-! ### ASCII (R12) -/

def asciiZero : Byte := 0x30#8
def asciiOne : Byte := 0x31#8
def asciiComma : Byte := 0x2C#8
def asciiLowerL : Byte := 0x6C#8
def asciiCr : Byte := 0x0D#8
def asciiLf : Byte := 0x0A#8

/-- `CRLF` (R10). -/
def crlf : Bytes := [asciiCr, asciiLf]

/-- The tag `"RLE"` (R12, R104). -/
def tagRle : Bytes := [0x52#8, 0x4C#8, 0x45#8]

/-- The tag `"HUF"` (R12, R104). -/
def tagHuf : Bytes := [0x48#8, 0x55#8, 0x46#8]

/-! ### Bits and bytes (R14) -/

/-- `bin8(b)`: the 8 bits of a byte, most significant first. -/
def bin8 (b : Byte) : Bits :=
  [b.getLsbD 7, b.getLsbD 6, b.getLsbD 5, b.getLsbD 4, b.getLsbD 3, b.getLsbD 2, b.getLsbD 1, b.getLsbD 0]

/-- The number a bit sequence spells, first bit most significant. -/
def natOfBits (s : Bits) : Nat := s.foldl (fun acc bit => 2 * acc + bit.toNat) 0

/-- `byte8(s)` for 8 bits: the inverse of `bin8`. -/
def byte8 (s : Bits) : Byte := BitVec.ofNat 8 (natOfBits s)

/-- The bit symbol of a bit: '0' or '1' (R14). -/
def bitSymbol (bit : Bool) : Byte := if bit then asciiOne else asciiZero

/-- A byte is a bit symbol (R100). -/
def isBitSymbol (b : Byte) : Bool := b == asciiZero || b == asciiOne

/-- The bit of a bit symbol. -/
def symbolBit (b : Byte) : Bool := b == asciiOne

/-! ### Decimal numerals (R13) -/

/-- The ASCII digit of `d < 10`. -/
def digit (d : Nat) : Byte := BitVec.ofNat 8 (0x30 + d)

/-- The numeral of `n` put before `acc`; `fuel > n` digits' worth of fuel is always enough. -/
def decBefore : (fuel n : Nat) → Bytes → Bytes
  | 0, _, acc => acc
  | fuel + 1, n, acc =>
    if n < 10 then digit n :: acc else decBefore fuel (n / 10) (digit (n % 10) :: acc)

/-- `dec(n)`: the shortest decimal numeral of `n` (R13, R109). -/
def dec (n : Nat) : Bytes := decBefore (n + 1) n []

/-- `isdigit(c)` (R13). -/
def isDigit (c : Byte) : Bool := 0x30#8 ≤ c && c ≤ 0x39#8

/-- `val(s)`: the decimal value of a digit sequence, leading zeros allowed (R13). -/
def val (s : Bytes) : Nat := s.foldl (fun acc c => 10 * acc + (c.toNat - 0x30)) 0

/-- `num(s, lo, hi)` (R107). -/
def num (s : Bytes) (lo hi : Nat) : Except Cause Nat :=
  if s ≠ [] ∧ s.all isDigit = true ∧ lo ≤ val s ∧ val s ≤ hi then .ok (val s) else .error .fmtNumber

/-! ### Lines and fields -/

/-- `split1(s)`: the bytes before and after the first CRLF (R108). -/
def split1 : Bytes → Option (Bytes × Bytes)
  | [] => none
  | b :: rest =>
    if b = asciiCr ∧ rest.head? = some asciiLf then some ([], rest.tail)
    else (split1 rest).map fun p => (b :: p.1, p.2)

/-- The fields of `s` between its commas: one more than there are commas (R107). -/
def splitCommas : Bytes → List Bytes
  | [] => [[]]
  | b :: rest =>
    if b = asciiComma then [] :: splitCommas rest
    else match splitCommas rest with
      | [] => [[b]]
      | f :: fs => (b :: f) :: fs

/-- The fields as run counts, left to right; the first bad field raises (R107). -/
def parseFields : List Bytes → Except Cause (List Nat)
  | [] => .ok []
  | f :: fs =>
    match num f 1 Config.runCap with
    | .error c => .error c
    | .ok k =>
      match parseFields fs with
      | .error c => .error c
      | .ok ks => .ok (k :: ks)

/-- `parse_counts(s)` (R107). -/
def parseCounts (s : Bytes) : Except Cause (List Nat) :=
  if s = [] then .ok [] else parseFields (splitCommas s)

/-- `counts_line(C)`: decimal, comma-separated, no trailing comma (R203). -/
def countsLine : List Nat → Bytes
  | [] => []
  | [k] => dec k
  | k :: ks => dec k ++ asciiComma :: countsLine ks

/-- `s` cut into pieces of `u` bytes, the last one possibly shorter; `fuel ≥ len(s)` is always enough for `u ≥ 1`.
The strides of a chunk (R201), the chunks of the data (R202) and the groups of eight bits (R101). -/
def pieces {α : Type} (u : Nat) : (fuel : Nat) → List α → List (List α)
  | 0, _ => []
  | fuel + 1, s => if s.isEmpty then [] else s.take u :: pieces u fuel (s.drop u)

end Sys2Proof.Machine
end

