-- ==== Sys2Proof/Machine/Flags.lean ====
section
/-! DEFINITION. The STATUS word (10_state.md R24), the interrupt output (R39), and the updates of the retained tables
together with the valid flags and counts that go with them (R34-R37, R41). The block has no other flags (R24). -/

namespace Sys2Proof.Machine

/-- STATUS.TREE_VALID: "When TREE_VALID = 0 its content is none" (R36). -/
def State.treeValid (s : State) : Bool := s.tree.isSome

/-- STATUS.BUSY: 1 exactly when SEQ = BUSY (R24). -/
def State.busy (s : State) : Bool := s.seq == .busy

/-- The word with bit `i` as given and no other bit. -/
def flagBit (i : Nat) (bit : Bool) : Word := BitVec.ofNat 32 (bit.toNat * 2 ^ i)

/-- The STATUS register as read (R24). -/
def State.statusWord (s : State) : Word :=
  flagBit 0 s.busy ||| flagBit 1 s.done ||| flagBit 2 s.err ||| flagBit 3 s.freqValid ||| flagBit 4 s.treeValid
    ||| flagBit 5 s.codesValid

/-- The CTRL register as read: START and SRST are WO and read 0 (R23). -/
def State.ctrlWord (s : State) : Word := flagBit 1 s.ie

/-- `irq = x[CTRL].IE ∧ x[STATUS].DONE` (R39). -/
def State.irq (s : State) : Bool := s.ie && s.done

/-! ### Trees: the leaf count and the codes -/

/-- The leaf bytes of a tree, in pre-order. -/
def CodeTree.leaves : CodeTree → Bytes
  | .leaf b => [b]
  | .node _ l r => l.leaves ++ r.leaves

/-- The number of nodes of a tree, leaves included (R8). -/
def CodeTree.size : CodeTree → Nat
  | .leaf _ => 1
  | .node _ l r => 1 + l.size + r.size

/-- The root is a Node (R36). -/
def CodeTree.isNode : CodeTree → Bool
  | .leaf _ => false
  | .node _ _ _ => true

/-- `nleaf(T)`: the number of distinct leaf bytes; 0 for no tree (R158). -/
def leafCount : Option CodeTree → Nat
  | none => 0
  | some t => t.leaves.dedup.length

/-- `visit(T, p)` (R154): left first, then right; a later visit of the same byte overwrites. -/
def visit : CodeTree → Bits → (Byte → Option Bits) → Byte → Option Bits
  | .leaf b, p, c => fun x => if x = b then some p else c x
  | .node _ l r, p, c => visit r (p ++ [true]) (visit l (p ++ [false]) c)

/-- `derive_codes(T)` (R154). -/
def deriveCodes (t : CodeTree) : Byte → Option Bits := visit t [] fun _ => none

/-- The number whose bit i is the i-th bit of the sequence: `Σ 2^i` over the set bits (R161). -/
def natOfBitsLsb : Bits → Nat
  | [] => 0
  | bit :: rest => bit.toNat + 2 * natOfBitsLsb rest

/-- CODE_LEN of a code map: 0 for a byte without a code (R37, R161). -/
def codeLenTable (c : Byte → Option Bits) : Vector Byte 256 :=
  tabulate fun b => BitVec.ofNat 8 ((c (BitVec.ofNat 8 b)).getD []).length

/-- CODE_BITS of a code map: code bit i at bit i, every other bit 0 (R37, R161). -/
def codeBitsTable (c : Byte → Option Bits) : Vector (BitVec 256) 256 :=
  tabulate fun b => BitVec.ofNat 256 (natOfBitsLsb ((c (BitVec.ofNat 8 b)).getD []))

/-! ### Table updates -/

/-- FREQ <- F, FREQ_VALID <- 1 (R35). -/
def State.setFreq (s : State) (f : Vector Word 256) : State := { s with freq := f, freqValid := true }

/-- FREQ_VALID <- 0: "When a valid flag is cleared, the table it guards holds any value" (R41). -/
def State.clearFreq (s : State) : State :=
  { s with freq := Config.freeFreqTable s.draws, freqValid := false }

/-- TREE <- T, TREE_VALID <- (T ≠ NONE), NLEAF <- nleaf(T) (R34, R36). -/
def State.setTree (s : State) (t : Option CodeTree) : State :=
  { s with tree := t, nleaf := BitVec.ofNat 32 (leafCount t) }

/-- CODE <- the codes of `t`, CODES_VALID <- 1 (R37, R161). -/
def State.setCodes (s : State) (t : CodeTree) : State :=
  { s with codeLen := codeLenTable (deriveCodes t), codeBits := codeBitsTable (deriveCodes t), codesValid := true }

/-- CODES_VALID <- 0, the code table then holding any value (R41). -/
def State.clearCodes (s : State) : State :=
  { s with
    codeLen := Config.freeCodeLenTable s.draws, codeBits := Config.freeCodeBitsTable s.draws, codesValid := false }

/-- CODE and CODES_VALID after a command that derives the codes of the tree it built, if it built one (R184). -/
def State.setCodesOf (s : State) : Option CodeTree → State
  | some t => s.setCodes t
  | none => s.clearCodes

end Sys2Proof.Machine
end

