-- ==== Sys2Proof/Machine/Ops.lean ====
section
/-! DEFINITION. The named operations: byte memories, reset, issue of a command, and the completion event with its
typed error (30_encoding.md R96, R97; 60_exceptions.md R250, R255; 70_reset_and_hazards.md R280). -/

namespace Sys2Proof.Machine

/-! ### Byte memories -/

/-- The specified byte at an offset; none where the content is unspecified. -/
def Memory.byte? : Memory → Nat → Option Byte
  | [], _ => none
  | (k, b) :: rest, a => if k = a then some b else Memory.byte? rest a

/-- The byte at offset `a` made `v`; offsets stay strictly rising. -/
def Memory.set : Memory → Nat → Byte → Memory
  | [], a, v => [(a, v)]
  | (k, b) :: rest, a, v =>
    if a < k then (a, v) :: (k, b) :: rest
    else if a = k then (a, v) :: rest
    else (k, b) :: Memory.set rest a v

/-- `bs` written at offsets `a`, `a + 1`, … -/
def Memory.write (m : Memory) (a : Nat) : Bytes → Memory
  | [] => m
  | b :: bs => (m.set a b).write (a + 1) bs

/-- The memory that specifies exactly the bytes `bs` from offset `a` on. -/
def Memory.ofBytesAt (a : Nat) : Bytes → Memory
  | [] => []
  | b :: bs => (a, b) :: Memory.ofBytesAt (a + 1) bs

/-- The canonical form: offsets strictly rising, each at least `lo` and below `cap`. No entry equals what an unlisted
offset reads as, because an unlisted offset has no specified content. -/
def Memory.wfFrom : (lo cap : Nat) → Memory → Bool
  | _, _, [] => true
  | lo, cap, (k, _) :: rest => decide (lo ≤ k) && decide (k < cap) && Memory.wfFrom (k + 1) cap rest

/-- A buffer of `cap` bytes in canonical form. -/
def Memory.wf (cap : Nat) (m : Memory) : Bool := Memory.wfFrom 0 cap m

/-- The capacity of a buffer (R5). -/
def State.capOf (s : State) : Buffer → Nat
  | .src => s.params.srcCap
  | .dst => s.params.dstCap
  | .ext => s.params.extCap

/-- The contents of a buffer. -/
def State.memOf (s : State) : Buffer → Memory
  | .src => s.src
  | .dst => s.dst
  | .ext => s.ext

/-- The byte at an offset of a buffer as one event reads it: the specified byte, or the free value of this draw
(10_state.md R43). -/
def State.bufByte (s : State) (w : Buffer) (off : Nat) : Byte :=
  ((s.memOf w).byte? off).getD (Config.freeByte w s.draws off)

/-- `n` bytes of a buffer from offset `off` on. -/
def State.bufBytes (s : State) (w : Buffer) (off n : Nat) : Bytes := (List.range' off n).map (s.bufByte w)

/-! ### Issue, completion, error, return -/

/-- Issue: DONE, ERR and ERRCODE cleared, SEQ <- BUSY, as one event (R96). -/
def State.startCommand (s : State) : State := { s with done := false, err := false, errcode := 0, seq := .busy }

/-- What every completion event does: DONE <- 1, SEQ <- IDLE (R97, R255); the free values of this event are spent. -/
def State.finish (s : State) : State := { s with done := true, seq := .idle, draws := s.draws + 1 }

/-- The end of a successful command: ERRCODE is "0 on success" (R255). -/
def State.succeed (s : State) : State := { s.finish with errcode := 0 }

/-- `raise <Class>(<CAUSE>)`: the end of a failed command. ERRCODE takes class and cause, ERR and DONE are set, SEQ is
IDLE; nothing is saved and control belongs to the host (R97, R250, R255). -/
def State.raise (s : State) (c : Cause) : State := { s.finish with errcode := c.word, err := true }

/-- The completion event (R97): the success write set, which `r` already holds applied, or the failure write set
`onFail` and the error. -/
def complete (onFail : State → State) (s : State) (r : Except Cause State) : Host.Outcome State Fault Refusal :=
  match r with
  | .ok t => .next t.succeed
  | .error c => .next ((onFail s).raise c)

/-- The host's return from a completion: a write to STATUS clears DONE and ERR where it has a 1, and nothing else
(R24, R257); ERRCODE keeps its value (R26). -/
def State.ackStatus (s : State) (v : Word) : State :=
  { s with done := s.done && !v.getLsbD 1, err := s.err && !v.getLsbD 2 }

/-- A reset, hardware or soft, as one atomic event (R280, R281): every piece of the block's state takes its value of
R42. The parameters, the level of the reset input and the model's own fields are no state that a reset sets. -/
def State.resetBlock (s : State) : State :=
  { State.afterReset s.params s.draws with resetIn := s.resetIn, events := s.events, lastResp := s.lastResp }

end Sys2Proof.Machine
end

