-- ==== Sys2Proof/Machine/Operands.lean ====
section
/-! DEFINITION. What a command reads (20_memory.md R74, 30_encoding.md R91, R95), how it delivers its output, and the
failure write sets that several commands share (10_state.md R41). -/

namespace Sys2Proof.Machine

/-! ### Inputs -/

/-- `SRC[0..x[SRC_LEN])`, or CapacityError(CAP_SRC) where SRC_LEN > SRC_CAP (R95). -/
def State.srcInput (s : State) : Except Cause Bytes :=
  if s.params.srcCap < s.srcLen.toNat then .error .capSrc else .ok (s.bufBytes .src 0 s.srcLen.toNat)

/-- `EXT[0..x[EXT_LEN])` (R91). -/
def State.extInput (s : State) : Bytes := s.bufBytes .ext 0 s.extLen.toNat

/-! ### Runs: a byte sequence repeated a number of times -/

/-- A run: its count and its unit (00_scope.md, "Run-list"). -/
abbrev Run := Nat × Bytes

/-- `repeat(unit, count)` of every run, in order (R204). -/
def expandRuns : List Run → Bytes
  | [] => []
  | (k, unit) :: rest => (List.replicate k unit).flatten ++ expandRuns rest

/-- The length of the expansion, computed without it. -/
def runsLength : List Run → Nat
  | [] => 0
  | (k, unit) :: rest => k * unit.length + runsLength rest

/-! ### Outputs -/

/-- `DST[0..len(out)) <- out`, `x[DST_LEN] <- len(out)`, or CapacityError(CAP_DST) where the output is longer than
DST_CAP (R95). The bytes at and beyond DST_LEN then hold any value (93_implementation_defined.md item 4; log 5). -/
def State.emit (s : State) (out : Bytes) : Except Cause State :=
  if s.params.dstCap < out.length then .error .capDst
  else .ok { s with dst := Memory.ofBytesAt 0 out, dstLen := BitVec.ofNat 32 out.length }

/-- `emit` of the expansion of runs, which is not expanded where it is too long (log 15). -/
def State.emitRuns (s : State) (runs : List Run) : Except Cause State :=
  if s.params.dstCap < runsLength runs then .error .capDst else s.emit (expandRuns runs)

/-- DST_LEN <- 0 and DST any: a command that delivers no bytes, every byte of DST then being at or beyond DST_LEN
(93_implementation_defined.md item 4; log 5), and every failure but CMD_ILLEGAL (R290; item 1; log 6). -/
def State.spoilDst (s : State) : State := { s with dst := [], dstLen := 0 }

/-- DST_LEN <- 0 and DST unchanged: an illegal OPCODE alone (R41, R235, R290). -/
def State.noOutput (s : State) : State := { s with dstLen := 0 }

/-! ### Failure write sets (R41), DST being any after each of them (R290) -/

/-- PACK, UNPACK. -/
def State.failPacker (s : State) : State := { s.spoilDst with pad := 0 }

/-- HUF_BUILD. -/
def State.failBuild (s : State) : State := ((s.spoilDst.setTree none).clearFreq).clearCodes

/-- HUF_CODES. -/
def State.failCodes (s : State) : State := s.spoilDst.clearCodes

/-- HUF_SERIALIZE. -/
def State.failSerialize (s : State) : State := s.spoilDst

/-- HUF_DESERIALIZE. -/
def State.failDeserialize (s : State) : State := (s.spoilDst.setTree none).clearCodes

/-- HUF_ENCODE, COMPRESS with METHOD = 1. -/
def State.failHufEncode (s : State) : State := (((s.failPacker).setTree none).clearFreq).clearCodes

/-- HUF_DECODE, EXTRACT with tag HUF. -/
def State.failHufDecode (s : State) : State := ((s.failPacker).setTree none).clearCodes

/-- The four RLE commands, COMPRESS with METHOD = 0, EXTRACT with tag RLE. -/
def State.failRle (s : State) : State := { s.spoilDst with nruns := 0 }

end Sys2Proof.Machine
end

