-- ==== Sys2Proof/Machine/Bus.lean ====
section
/-! DEFINITION. The bus port: the address map, reads and writes (20_memory.md R60-R70; 10_state.md R22-R43). -/

namespace Sys2Proof.Machine

/-- The number of bytes of a transaction (R61). -/
def Size.bytes : Size → Nat
  | .one => 1
  | .two => 2
  | .four => 4

/-! ### The address map (R62) -/

/-- The offset of a register (R62). -/
def Reg.offset : Reg → Nat
  | .id => 0x00
  | .ctrl => 0x04
  | .status => 0x08
  | .cmd => 0x0C
  | .errcode => 0x10
  | .srcLen => 0x14
  | .dstLen => 0x18
  | .unitSize => 0x1C
  | .extLen => 0x20
  | .pad => 0x24
  | .nruns => 0x28
  | .efficiency => 0x2C
  | .nleaf => 0x30

/-- The registers of the map. -/
def allRegs : List Reg :=
  [.id, .ctrl, .status, .cmd, .errcode, .srcLen, .dstLen, .unitSize, .extLen, .pad, .nruns, .efficiency, .nleaf]

/-- The register or table entry at offset `a`, a multiple of 4 (R62). -/
def wordLoc (a : Nat) : Option Loc :=
  if a < 0x400 then (allRegs.find? fun r => r.offset == a).map .reg
  else if a < 0x800 then some (.freq (BitVec.ofNat 8 ((a - 0x400) / 4)))
  else if a < 0xC00 then some (.codeLen (BitVec.ofNat 8 ((a - 0x800) / 4)))
  else if a < 0x2000 then none
  else if a < 0x4000 then
    some (.codeBits (BitVec.ofNat 8 ((a - 0x2000) / 32)) (BitVec.ofNat 3 ((a - 0x2000) % 32 / 4)))
  else none

/-- The base of a buffer in the map (R62). -/
def bufferBase : Buffer → Nat
  | .ext => 0x4000
  | .src => 0x1000000
  | .dst => 0x2000000

/-- The buffer whose rows of the map hold offset `a` (R62). -/
def bufferAt (a : Nat) : Option Buffer :=
  if 0x4000 ≤ a ∧ a < 0x4100 then some .ext
  else if 0x1000000 ≤ a ∧ a < 0x2000000 then some .src
  else if 0x2000000 ≤ a ∧ a < 0x3000000 then some .dst
  else none

/-- What an access of the given size at an offset reaches; none where the map does not admit it: reserved or unmapped,
beyond a capacity, misaligned, or of another size than the row's (R62, R64). An admitted access lies in one row. -/
def State.locate (s : State) (addr : Addr) (size : Size) : Option Loc :=
  let a := addr.toNat
  match bufferAt a with
  | some w =>
    if a % size.bytes = 0 ∧ a - bufferBase w + size.bytes ≤ s.capOf w then some (.buffer w (a - bufferBase w)) else none
  | none => if size = .four ∧ a % 4 = 0 then wordLoc a else none

/-! ### Values -/

/-- The little-endian value of a byte sequence (R63). -/
def leValue : Bytes → Nat
  | [] => 0
  | b :: bs => b.toNat + 256 * leValue bs

/-- The `n` low bytes of a word, least significant first (R63). -/
def leBytes (v : Word) : (n : Nat) → Bytes
  | 0 => []
  | n + 1 => v.setWidth 8 :: leBytes (v >>> 8) n

/-- A register as read while SEQ = IDLE (R22-R34). -/
def State.readReg (s : State) : Reg → Word
  | .id => Config.idWord
  | .ctrl => s.ctrlWord
  | .status => s.statusWord
  | .cmd => s.cmd
  | .errcode => s.errcode
  | .srcLen => s.srcLen
  | .dstLen => s.dstLen
  | .unitSize => s.unitSize
  | .extLen => s.extLen
  | .pad => s.pad
  | .nruns => s.nruns
  | .efficiency => s.efficiency
  | .nleaf => s.nleaf

/-- Word `k` of CODE_BITS[b]: bits 32k+31 .. 32k (R37, R161). -/
def State.codeBitsWord (s : State) (b : Byte) (k : BitVec 3) : Word :=
  (s.codeBits[b.toNat]'b.isLt).extractLsb' (32 * k.toNat) 32

/-- The low `n` bytes of a word, the others 0. -/
def lowBytes (n : Nat) (v : Word) : Word := BitVec.ofNat 32 (v.toNat % 256 ^ n)

/-- The data of an admitted read while SEQ = IDLE. An entry of an invalid table is any value (R43); bits 31:8 of the
CODE_LEN window are 0 always (R62; 93_implementation_defined.md item 10; log 17). -/
def State.readLoc (s : State) (size : Size) : Loc → Word
  | .reg r => s.readReg r
  | .freq b => if s.freqValid then s.freq[b.toNat]'b.isLt else Config.freeRead s.draws
  | .codeLen b => if s.codesValid then (s.codeLen[b.toNat]'b.isLt).setWidth 32 else lowBytes 1 (Config.freeRead s.draws)
  | .codeBits b k => if s.codesValid then s.codeBitsWord b k else Config.freeRead s.draws
  | .buffer w off => BitVec.ofNat 32 (leValue (s.bufBytes w off size.bytes))

/-- A location that is read exactly while SEQ = BUSY: ID, CTRL and STATUS (R70). -/
def readableWhileBusy : Loc → Bool
  | .reg .id => true
  | .reg .ctrl => true
  | .reg .status => true
  | _ => false

/-! ### Transactions -/

/-- The answer to a read. An access the map refuses is answered ERROR with any data (R61, R66). While SEQ = BUSY a
read of anything but ID, CTRL and STATUS is answered OKAY with any value (R70). -/
def State.readAnswer (s : State) (addr : Addr) (size : Size) : BusAnswer :=
  match s.locate addr size with
  | none => .read (Config.freeRead s.draws) .error
  | some loc =>
    if s.busy && !readableWhileBusy loc then .read (lowBytes size.bytes (Config.freeRead s.draws)) .okay
    else .read (s.readLoc size loc) .okay

/-- `MemRead` (R66): no side effect on the block (R67); the answer is recorded and the draw is spent. -/
def State.busRead (s : State) (addr : Addr) (size : Size) : State :=
  { s with lastResp := some (s.readAnswer addr size), draws := s.draws + 1 }

/-- A write to CTRL (R23): SRST discards the other bits and resets (R281); else IE is updated, and then START issues
the command where SEQ = IDLE and is ignored where SEQ = BUSY (R70, R96). -/
def State.writeCtrl (s : State) (v : Word) : State :=
  if v.getLsbD 2 then s.resetBlock
  else if v.getLsbD 0 && !s.busy then { s with ie := v.getLsbD 1 }.startCommand
  else { s with ie := v.getLsbD 1 }

/-- A write to a register while SEQ = IDLE (R23-R34); a write to an RO register changes nothing (R65). -/
def State.writeReg (s : State) (v : Word) : Reg → State
  | .ctrl => s.writeCtrl v
  | .status => s.ackStatus v
  | .cmd => { s with cmd := v &&& 0x3FF#32 }
  | .srcLen => { s with srcLen := v }
  | .unitSize => { s with unitSize := v }
  | .extLen => { s with extLen := v }
  | .id => s
  | .errcode => s
  | .dstLen => s
  | .pad => s
  | .nruns => s
  | .efficiency => s
  | .nleaf => s

/-- A write to an admitted location while SEQ = IDLE. The table windows and DST are RO (R65). -/
def State.writeLoc (s : State) (size : Size) (v : Word) : Loc → State
  | .reg r => s.writeReg v r
  | .freq _ => s
  | .codeLen _ => s
  | .codeBits _ _ => s
  | .buffer .src off => { s with src := s.src.write off (leBytes v size.bytes) }
  | .buffer .ext off => { s with ext := s.ext.write off (leBytes v size.bytes) }
  | .buffer .dst _ => s

/-- `MemWrite` (R66), the answer recorded. While SEQ = BUSY an admitted write to CTRL takes effect and every other
write is answered OKAY and ignored (R70; log 9). A write the map refuses is answered ERROR and changes nothing. -/
def State.busWrite (s : State) (addr : Addr) (size : Size) (v : Word) : State :=
  if s.busy then
    if s.locate addr size = some (.reg .ctrl) then { s.writeCtrl v with lastResp := some (.write .okay) }
    else { s with lastResp := some (.write .okay) }
  else
    match s.locate addr size with
    | none => { s with lastResp := some (.write .error) }
    | some loc => { s.writeLoc size v loc with lastResp := some (.write .okay) }

/-- The reset input driven to a level (R280). Asserting it resets the block as one atomic event, and abandons a
command in flight. -/
def State.driveReset (s : State) (level : Bool) : State :=
  if level then { s.resetBlock with resetIn := true } else { s with resetIn := false }

end Sys2Proof.Machine
end

