-- ==== Sys2Proof/Machine/BitPacker.lean ====
section
/-! DEFINITION. The bit-packer: its functions and the commands PACK and UNPACK (40_bitpacker.md). -/

namespace Sys2Proof.Machine

/-- The pad count of `n` bits: `(8 − (n mod 8)) mod 8` (R130). -/
def padCount (n : Nat) : Nat := (8 - n % 8) % 8

/-- `pack_bits(bits)`: the bytes, the first bit of each group of eight being bit 7, and the pad count (R130). -/
def packBits (bits : Bits) : Bytes × Nat :=
  let pad := padCount bits.length
  ((pieces 8 bits.length (bits ++ List.replicate pad false)).map byte8, pad)

/-- `packed(bits)`: the packed bytes and the one-character pad trailer (R131, R101). -/
def packed (bits : Bits) : Bytes := (packBits bits).1 ++ [digit (packBits bits).2]

/-- `unpack_bits(p)` (R132). The trailer is the final byte; the discarded pad bits are not checked. -/
def unpackBits (p : Bytes) : Except Cause (Bits × Nat) :=
  match p.getLast? with
  | none => .error .fmtPad
  | some t =>
    if ¬(0x30#8 ≤ t ∧ t ≤ 0x37#8) then .error .fmtPad
    else
      let pad := t.toNat - 0x30
      let m := p.length - 1
      if 8 * m < pad then .error .fmtPad
      else .ok (((p.take m).flatMap bin8).take (8 * m - pad), pad)

/-- `Body_PACK` (R133). -/
def bodyPack (s : State) : Except Cause State :=
  match s.srcInput with
  | .error c => .error c
  | .ok inp =>
    if inp.all isBitSymbol = true then
      match s.emit (packed (inp.map symbolBit)) with
      | .error c => .error c
      | .ok t => .ok { t with pad := BitVec.ofNat 32 (padCount inp.length) }
    else .error .fmtBitSymbol

/-- `Body_UNPACK` (R134). -/
def bodyUnpack (s : State) : Except Cause State :=
  match s.srcInput with
  | .error c => .error c
  | .ok inp =>
    match unpackBits inp with
    | .error c => .error c
    | .ok (bits, pad) =>
      match s.emit (bits.map bitSymbol) with
      | .error c => .error c
      | .ok t => .ok { t with pad := BitVec.ofNat 32 pad }

/-- PACK, OPCODE 0x01 (R133). METHOD is ignored (R93 (b)). -/
def execPack (_method : BitVec 2) (s : State) : Host.Outcome State Fault Refusal :=
  complete State.failPacker s (bodyPack s)

/-- UNPACK, OPCODE 0x02 (R134). METHOD is ignored (R93 (b)). -/
def execUnpack (_method : BitVec 2) (s : State) : Host.Outcome State Fault Refusal :=
  complete State.failPacker s (bodyUnpack s)

end Sys2Proof.Machine
end

