-- ==== Sys2Proof/Machine/HuffmanTree.lean ====
section
/-! DEFINITION. The Huffman tree: builder, serializer, deserializer, and the commands HUF_BUILD, HUF_CODES,
HUF_SERIALIZE and HUF_DESERIALIZE (41_huffman_tree.md). The code generator is in Flags.lean. -/

namespace Sys2Proof.Machine

/-! ### Tree builder -/

/-- F[b], the number of occurrences of b in the data (R150). -/
def freqOf (data : Bytes) (b : Byte) : Nat := data.count b

/-- FREQ of the data (R35). -/
def freqTable (data : Bytes) : Vector Word 256 :=
  tabulate fun b => BitVec.ofNat 32 (freqOf data (BitVec.ofNat 8 b))

/-- S, the distinct bytes of the data in the order of their first occurrence (R150). -/
def seedOrder (data : Bytes) : Bytes := data.foldl (fun s b => if b ∈ s then s else s ++ [b]) []

/-- A slot of the builder's list L: a weight and a tree (R151). -/
abbrev Slot := Nat × CodeTree

/-- The least weight of a list of slots, and 0 for the empty list. -/
def minWeight : List Slot → Nat
  | [] => 0
  | [x] => x.1
  | x :: xs => min x.1 (minWeight xs)

/-- The least index of a slot of the least weight (R151). -/
def minIndex (l : List Slot) : Nat := l.findIdx fun x => x.1 == minWeight l

/-- One round of the builder (R151): the two slots of least weight, the second pass excluding the first slot, are
merged; the slot of smaller index becomes the left child; the new node takes the higher slot and the lower slot is
removed. -/
def mergeLowest (l : List Slot) : List Slot :=
  let i1 := minIndex l
  let j := minIndex (l.eraseIdx i1)
  let i2 := if j < i1 then j else j + 1
  let lo := min i1 i2
  let hi := max i1 i2
  match l[lo]?, l[hi]? with
  | some a, some b => (l.set hi (a.1 + b.1, .node (BitVec.ofNat 32 (a.1 + b.1)) a.2 b.2)).eraseIdx lo
  | _, _ => []

/-- The rounds until one slot is left; each removes a slot, so `fuel ≥ len(L)` is always enough. -/
def mergeAll : (fuel : Nat) → List Slot → Option CodeTree
  | _, [x] => some x.2
  | 0, _ => none
  | fuel + 1, l => mergeAll fuel (mergeLowest l)

/-- The leaves L starts from (R151). -/
def seedSlots (data : Bytes) : List Slot := (seedOrder data).map fun b => (freqOf data b, .leaf b)

/-- T of `build_tree(data)` (R151), with the degenerate tree of one distinct byte (R152). F is `freqTable`. -/
def buildTree (data : Bytes) : Option CodeTree :=
  match seedOrder data with
  | [] => none
  | [b] => some (.node (BitVec.ofNat 32 (2 * freqOf data b)) (.leaf b) (.leaf b))
  | _ => mergeAll (seedSlots data).length (seedSlots data)

/-! ### Serializer and deserializer -/

/-- `serialize(T)` of a tree value (R156). -/
def serialize : CodeTree → Bytes
  | .leaf b => [b, asciiLowerL, asciiComma]
  | .node f l r => dec f.toNat ++ asciiComma :: (serialize l ++ serialize r)

/-- `serialize(T)`, the empty sequence for no tree (R156). -/
def serializeTree : Option CodeTree → Bytes
  | none => []
  | some t => serialize t

/-- The digits at the head of `s`, and the rest. -/
def spanDigits : Bytes → Bytes × Bytes
  | [] => ([], [])
  | c :: rest => if isDigit c then (c :: (spanDigits rest).1, (spanDigits rest).2) else ([], c :: rest)

/-- The head token of a tree stream (R102, R157): a leaf with its byte, or an internal node with its frequency. -/
inductive TreeToken where
  | leaf (b : Byte)
  | internal (f : Word)
deriving DecidableEq, Repr

/-- The first token of `s` and the bytes after it; the checks in the order of R157, the node count apart. -/
def nextToken (s : Bytes) : Except Cause (TreeToken × Bytes) :=
  match s with
  | [] => .error .fmtTreeTruncated
  | [_] => .error .fmtTreeTruncated
  | b :: second :: rest =>
    if second = asciiLowerL then
      match rest with
      | [] => .error .fmtTreeTruncated
      | third :: rest' => if third = asciiComma then .ok (.leaf b, rest') else .error .fmtTreeToken
    else
      let ds := spanDigits s
      if ds.1 = [] then .error .fmtTreeToken
      else
        match ds.2 with
        | [] => .error .fmtTreeTruncated
        | c :: rest' =>
          if c ≠ asciiComma then .error .fmtTreeToken
          else if 2 ^ 32 - 1 < val ds.1 then .error .fmtTreeToken
          else .ok (.internal (BitVec.ofNat 32 (val ds.1)), rest')

/-- `node(p)` (R157): the tree at the head of `s`, the bytes after it, and the node count so far, which was `count`
before. Every token has at least two bytes, so `fuel > len(s)` is always enough; it is never what ends a parse. -/
def parseNode : (fuel : Nat) → (s : Bytes) → (count : Nat) → Except Cause (CodeTree × Bytes × Nat)
  | 0, _, _ => .error .fmtTreeTruncated
  | fuel + 1, s, count =>
    match nextToken s with
    | .error c => .error c
    | .ok (token, rest) =>
      if Config.nodeCap < count + 1 then .error .capTree
      else
        match token with
        | .leaf b => .ok (.leaf b, rest, count + 1)
        | .internal f =>
          match parseNode fuel rest (count + 1) with
          | .error c => .error c
          | .ok (l, rest1, count1) =>
            match parseNode fuel rest1 count1 with
            | .error c => .error c
            | .ok (r, rest2, count2) => .ok (.node f l r, rest2, count2)

/-- `deserialize(s)` (R157): trailing bytes are tested before a leaf root. -/
def deserialize (s : Bytes) : Except Cause CodeTree :=
  match parseNode (s.length + 1) s 0 with
  | .error c => .error c
  | .ok (t, rest, _) =>
    if rest ≠ [] then .error .fmtTreeTrailing
    else if t.isNode = true then .ok t
    else .error .fmtTreeLeafRoot

/-! ### Commands -/

/-- `Body_HUF_BUILD` (R160). -/
def bodyHufBuild (s : State) : Except Cause State :=
  match s.srcInput with
  | .error c => .error c
  | .ok inp => .ok (((s.spoilDst.setFreq (freqTable inp)).setTree (buildTree inp)).clearCodes)

/-- `Body_HUF_CODES` (R161). SRC is not read. -/
def bodyHufCodes (s : State) : Except Cause State :=
  match s.tree with
  | none => .error .fmtTreeEmpty
  | some t => .ok (s.spoilDst.setCodes t)

/-- `Body_HUF_SERIALIZE` (R162). SRC is not read. -/
def bodyHufSerialize (s : State) : Except Cause State := s.emit (serializeTree s.tree)

/-- `Body_HUF_DESERIALIZE` (R163). FREQ is not changed. -/
def bodyHufDeserialize (s : State) : Except Cause State :=
  match s.srcInput with
  | .error c => .error c
  | .ok inp =>
    match deserialize inp with
    | .error c => .error c
    | .ok t => .ok ((s.spoilDst.setTree (some t)).clearCodes)

/-- HUF_BUILD, OPCODE 0x10 (R160). METHOD is ignored (R93 (b)). -/
def execHufBuild (_method : BitVec 2) (s : State) : Host.Outcome State Fault Refusal :=
  complete State.failBuild s (bodyHufBuild s)

/-- HUF_CODES, OPCODE 0x11 (R161). METHOD is ignored (R93 (b)). -/
def execHufCodes (_method : BitVec 2) (s : State) : Host.Outcome State Fault Refusal :=
  complete State.failCodes s (bodyHufCodes s)

/-- HUF_SERIALIZE, OPCODE 0x12 (R162). METHOD is ignored (R93 (b)). -/
def execHufSerialize (_method : BitVec 2) (s : State) : Host.Outcome State Fault Refusal :=
  complete State.failSerialize s (bodyHufSerialize s)

/-- HUF_DESERIALIZE, OPCODE 0x13 (R163). METHOD is ignored (R93 (b)). -/
def execHufDeserialize (_method : BitVec 2) (s : State) : Host.Outcome State Fault Refusal :=
  complete State.failDeserialize s (bodyHufDeserialize s)

end Sys2Proof.Machine
end

