-- ==== Sys2Proof/Machine/HuffmanCodec.lean ====
section
/-! DEFINITION. The Huffman codec and the commands HUF_ENCODE and HUF_DECODE (42_huffman_codec.md). -/

namespace Sys2Proof.Machine

/-- The concatenated codes of the data (R180). -/
def codeBitsOf (t : CodeTree) (data : Bytes) : Bits := data.flatMap fun b => (deriveCodes t b).getD []

/-- The body and the pad count of `huf_encode_body(data)` (R180). Empty data gives CRLF alone, without a pad trailer
(R181). F is `freqTable data`, T is `buildTree data` and C the codes of T. -/
def hufEncodeBody (data : Bytes) : Bytes × Nat :=
  match buildTree data with
  | none => (crlf, 0)
  | some t => (serialize t ++ crlf ++ packed (codeBitsOf t data), padCount (codeBitsOf t data).length)

/-- `walk(T, bits)` (R182) from node `n`, `out` being the bytes emitted so far, last first. At the end of the bits the
walk must be at the root. -/
def walkFrom (root : CodeTree) : (n : CodeTree) → (atRoot : Bool) → Bits → (out : Bytes) → Except Cause Bytes
  | _, atRoot, [], out => if atRoot = true then .ok out.reverse else .error .fmtBitsTruncated
  | .leaf _, _, _ :: _, _ => .error .fmtBitsTruncated
  | .node _ l r, _, bit :: rest, out =>
    match if bit then r else l with
    | .leaf b => walkFrom root root true rest (b :: out)
    | .node f l' r' => walkFrom root (.node f l' r') false rest out

/-- `walk(T, bits)` for a tree whose root is a Node (R182). -/
def walk (t : CodeTree) (bits : Bits) : Except Cause Bytes := walkFrom t t true bits []

/-- `huf_decode_body(s)`: the data, the tree and the pad count, the checks in the order of R183. -/
def hufDecodeBody (s : Bytes) : Except Cause (Bytes × Option CodeTree × Nat) :=
  match split1 s with
  | none => .error .fmtHeaderLines
  | some (treeLine, payload) =>
    if payload = [] then .ok ([], none, 0)
    else if treeLine = [] then .error .fmtTreeEmpty
    else
      match deserialize treeLine with
      | .error c => .error c
      | .ok t =>
        match unpackBits payload with
        | .error c => .error c
        | .ok (bits, pad) =>
          match walk t bits with
          | .error c => .error c
          | .ok out => .ok (out, some t, pad)

/-- The table, count and pad writes of a Huffman encoding of `data` (R184). -/
def State.hufEncodeWrites (s : State) (data : Bytes) (pad : Nat) : State :=
  { (((s.setFreq (freqTable data)).setTree (buildTree data)).setCodesOf (buildTree data)) with
    pad := BitVec.ofNat 32 pad }

/-- The table, count and pad writes of a Huffman decoding (R185). -/
def State.hufDecodeWrites (s : State) (t : Option CodeTree) (pad : Nat) : State :=
  { (s.setTree t).clearCodes with pad := BitVec.ofNat 32 pad }

/-- `Body_HUF_ENCODE` (R184). -/
def bodyHufEncode (s : State) : Except Cause State :=
  match s.srcInput with
  | .error c => .error c
  | .ok inp =>
    match s.emit (hufEncodeBody inp).1 with
    | .error c => .error c
    | .ok t => .ok (t.hufEncodeWrites inp (hufEncodeBody inp).2)

/-- `Body_HUF_DECODE` (R185). -/
def bodyHufDecode (s : State) : Except Cause State :=
  match s.srcInput with
  | .error c => .error c
  | .ok inp =>
    match hufDecodeBody inp with
    | .error c => .error c
    | .ok (out, tree, pad) =>
      match s.emit out with
      | .error c => .error c
      | .ok t => .ok (t.hufDecodeWrites tree pad)

/-- HUF_ENCODE, OPCODE 0x14 (R184). METHOD is ignored (R93 (b)). -/
def execHufEncode (_method : BitVec 2) (s : State) : Host.Outcome State Fault Refusal :=
  complete State.failHufEncode s (bodyHufEncode s)

/-- HUF_DECODE, OPCODE 0x15 (R185). METHOD is ignored (R93 (b)). -/
def execHufDecode (_method : BitVec 2) (s : State) : Host.Outcome State Fault Refusal :=
  complete State.failHufDecode s (bodyHufDecode s)

end Sys2Proof.Machine
end

