-- ==== Sys2Proof/Machine/Rle.lean ====
section
/-! DEFINITION. The RLE codec and the commands RLE_ENCODE_CHUNK, RLE_DECODE_CHUNK, RLE_ENCODE and RLE_DECODE
(43_rle.md). -/

namespace Sys2Proof.Machine

/-! ### Encoder -/

/-- The runs of the strides that follow, the current run being `cur` with count `k` (R201). -/
def extendRun (cur : Bytes) : (k : Nat) → List Bytes → List Run
  | k, [] => [(k, cur)]
  | k, st :: rest =>
    if st = cur ∧ k < Config.runCap then extendRun cur (k + 1) rest else (k, cur) :: extendRun st 1 rest

/-- The runs of a list of strides. -/
def runsOf : List Bytes → List Run
  | [] => []
  | st :: rest => extendRun st 1 rest

/-- `encode_chunk(ch, u)` (R201), counts and units paired. -/
def encodeChunk (ch : Bytes) (u : Nat) : List Run :=
  if ch.length ≤ u then [(1, ch)] else runsOf (pieces u ch.length ch)

/-- `rle_runs(data, u)` (R202): each chunk of 1000 bytes on its own. -/
def rleRuns (data : Bytes) (u : Nat) : List Run :=
  (pieces Config.chunk data.length data).flatMap fun ch => encodeChunk ch u

/-- The run counts, in order. -/
def runCounts (runs : List Run) : List Nat := runs.map Prod.fst

/-- The unit bytes of every run, once each, in run order (R105). -/
def runLiterals (runs : List Run) : Bytes := runs.flatMap Prod.snd

/-- The chunk body `counts CRLF literals` (R106). -/
def chunkBody (runs : List Run) : Bytes := countsLine (runCounts runs) ++ crlf ++ runLiterals runs

/-- `rle_encode_body(data, u)` (R203). -/
def rleEncodeBody (data : Bytes) (u : Nat) : Bytes := dec u ++ crlf ++ chunkBody (rleRuns data u)

/-! ### Decoder -/

/-- `replay(u, C, lits)` from the point where `rem` bytes of the chunk are left, as runs (R204, R205): each run takes
`min(u, rem, bytes left)` literal bytes; an exhausted literal stream stops early; literals left over raise. -/
def replay (u : Nat) : (counts : List Nat) → (rem : Nat) → (lits : Bytes) → Except Cause (List Run)
  | [], _, lits => if lits = [] then .ok [] else .error .fmtRleLiterals
  | k :: ks, rem, lits =>
    let l := min u (min rem lits.length)
    if l = 0 then .ok []
    else
      match replay u ks (if rem ≤ k * l then Config.chunk else rem - k * l) (lits.drop l) with
      | .error c => .error c
      | .ok runs => .ok ((k, lits.take l) :: runs)

/-- `rle_decode_body(s)`: the output as runs, and the number of counts (R206). -/
def rleDecodeBody (s : Bytes) : Except Cause (List Run × Nat) :=
  match split1 s with
  | none => .error .fmtHeaderLines
  | some (line2, rest) =>
    match split1 rest with
    | none => .error .fmtHeaderLines
    | some (line3, lits) =>
      match num line2 1 (2 ^ 32 - 1) with
      | .error c => .error c
      | .ok u =>
        match parseCounts line3 with
        | .error c => .error c
        | .ok counts =>
          match replay u counts Config.chunk lits with
          | .error c => .error c
          | .ok runs => .ok (runs, counts.length)

/-- The chunk-body decoder of RLE_DECODE_CHUNK: the output as runs, and the number of counts (R211). -/
def chunkDecodeBody (u : Nat) (s : Bytes) : Except Cause (List Run × Nat) :=
  match split1 s with
  | none => .error .fmtHeaderLines
  | some (line, lits) =>
    match parseCounts line with
    | .error c => .error c
    | .ok counts =>
      match replay u counts Config.chunk lits with
      | .error c => .error c
      | .ok runs => .ok (runs, counts.length)

/-! ### Commands -/

/-- x[NRUNS] <- n (R32). -/
def State.setNruns (s : State) (n : Nat) : State := { s with nruns := BitVec.ofNat 32 n }

/-- `Body_RLE_ENCODE_CHUNK` (R210). -/
def bodyRleEncodeChunk (s : State) : Except Cause State :=
  match s.srcInput with
  | .error c => .error c
  | .ok inp =>
    if s.unitSize = 0 then .error .cfgUnitSize
    else if Config.chunk < inp.length then .error .cfgChunkLen
    else
      let runs := encodeChunk inp s.unitSize.toNat
      match s.emit (chunkBody runs) with
      | .error c => .error c
      | .ok t => .ok (t.setNruns runs.length)

/-- `Body_RLE_DECODE_CHUNK` (R211). -/
def bodyRleDecodeChunk (s : State) : Except Cause State :=
  match s.srcInput with
  | .error c => .error c
  | .ok inp =>
    if s.unitSize = 0 then .error .cfgUnitSize
    else
      match chunkDecodeBody s.unitSize.toNat inp with
      | .error c => .error c
      | .ok (runs, n) =>
        match s.emitRuns runs with
        | .error c => .error c
        | .ok t => .ok (t.setNruns n)

/-- `Body_RLE_ENCODE` (R212). -/
def bodyRleEncode (s : State) : Except Cause State :=
  match s.srcInput with
  | .error c => .error c
  | .ok inp =>
    if s.unitSize = 0 then .error .cfgUnitSize
    else
      match s.emit (rleEncodeBody inp s.unitSize.toNat) with
      | .error c => .error c
      | .ok t => .ok (t.setNruns (rleRuns inp s.unitSize.toNat).length)

/-- `Body_RLE_DECODE` (R213). UNIT_SIZE is not read. -/
def bodyRleDecode (s : State) : Except Cause State :=
  match s.srcInput with
  | .error c => .error c
  | .ok inp =>
    match rleDecodeBody inp with
    | .error c => .error c
    | .ok (runs, n) =>
      match s.emitRuns runs with
      | .error c => .error c
      | .ok t => .ok (t.setNruns n)

/-- RLE_ENCODE_CHUNK, OPCODE 0x20 (R210). METHOD is ignored (R93 (b)). -/
def execRleEncodeChunk (_method : BitVec 2) (s : State) : Host.Outcome State Fault Refusal :=
  complete State.failRle s (bodyRleEncodeChunk s)

/-- RLE_DECODE_CHUNK, OPCODE 0x21 (R211). METHOD is ignored (R93 (b)). -/
def execRleDecodeChunk (_method : BitVec 2) (s : State) : Host.Outcome State Fault Refusal :=
  complete State.failRle s (bodyRleDecodeChunk s)

/-- RLE_ENCODE, OPCODE 0x22 (R212). METHOD is ignored (R93 (b)). -/
def execRleEncode (_method : BitVec 2) (s : State) : Host.Outcome State Fault Refusal :=
  complete State.failRle s (bodyRleEncode s)

/-- RLE_DECODE, OPCODE 0x23 (R213). METHOD is ignored (R93 (b)). -/
def execRleDecode (_method : BitVec 2) (s : State) : Host.Outcome State Fault Refusal :=
  complete State.failRle s (bodyRleDecode s)

end Sys2Proof.Machine
end

