-- ==== Sys2Proof/Machine/Engine.lean ====
section
/-! DEFINITION. The codec engine: COMPRESS and EXTRACT, and the completion of an illegal command (44_engine.md). -/

namespace Sys2Proof.Machine

/-- Line 1 of an artifact: `tag ',' ext CRLF` (R104). -/
def artifactLine (tag ext : Bytes) : Bytes := tag ++ [asciiComma] ++ ext ++ crlf

/-- `compress_one` for METHOD = 0 (R230). -/
def compressRle (data : Bytes) (u : Nat) (ext : Bytes) : Bytes := artifactLine tagRle ext ++ rleEncodeBody data u

/-- `compress_one` for METHOD = 1 (R230). -/
def compressHuf (data ext : Bytes) : Bytes := artifactLine tagHuf ext ++ (hufEncodeBody data).1

/-- `efficiency(n_in, n_out)` as 32-bit two's complement (R232). -/
def efficiencyWord (nIn nOut : Nat) : Word := BitVec.ofInt 32 ((nIn : Int) - (nOut : Int))

/-- The extension may stand in line 1: it holds no 0x0D and no 0x0A (R233, R104). -/
def extAllowed (ext : Bytes) : Bool := ext.all fun b => b != asciiCr && b != asciiLf

/-- What an artifact holds: the decoded RLE or Huffman body (R231). -/
inductive Extracted where
  | rle (runs : List Run) (nruns : Nat)
  | huf (out : Bytes) (tree : Option CodeTree) (pad : Nat)
deriving DecidableEq, Repr

/-- The length of the decoded data. -/
def extractedLength : Extracted → Nat
  | .rle runs _ => runsLength runs
  | .huf out _ _ => out.length

/-- The decoded data. -/
def extractedBytes : Extracted → Bytes
  | .rle runs _ => expandRuns runs
  | .huf out _ _ => out

/-- The decoder the tag selects, applied to the body (R231). -/
def extractBody (tag body : Bytes) : Except Cause Extracted :=
  if tag = tagRle then
    match rleDecodeBody body with
    | .error c => .error c
    | .ok (runs, n) => .ok (.rle runs n)
  else
    match hufDecodeBody body with
    | .error c => .error c
    | .ok (out, tree, pad) => .ok (.huf out tree pad)

/-- `extract_one(a)`: the decoded body and the extension, the checks in the order of R231. -/
def extractOne (a : Bytes) : Except Cause (Extracted × Bytes) :=
  if a.take 3 ≠ tagRle ∧ a.take 3 ≠ tagHuf then .error .fmtTag
  else
    match split1 a with
    | none => .error .fmtHeaderLines
    | some (line1, body) =>
      if line1[3]? ≠ some asciiComma then .error .fmtTag
      else
        match extractBody (a.take 3) body with
        | .error c => .error c
        | .ok x => .ok (x, line1.drop 4)

/-- The configuration checks of COMPRESS that follow METHOD and UNIT_SIZE: the extension, or CFG_EXT (R233). -/
def State.compressExt (s : State) : Except Cause Bytes :=
  if s.params.extCap < s.extLen.toNat then .error .cfgExt
  else if extAllowed s.extInput = true then .ok s.extInput
  else .error .cfgExt

/-- x[EFFICIENCY] after an output of `nOut` bytes from an input of `nIn` (R33). -/
def State.setEfficiency (s : State) (nIn nOut : Nat) : State := { s with efficiency := efficiencyWord nIn nOut }

/-- `Body_COMPRESS` for METHOD = 0 on the input bytes (R233). -/
def bodyCompressRle (s : State) (inp : Bytes) : Except Cause State :=
  if s.unitSize = 0 then .error .cfgUnitSize
  else
    match s.compressExt with
    | .error c => .error c
    | .ok ext =>
      let out := compressRle inp s.unitSize.toNat ext
      match s.emit out with
      | .error c => .error c
      | .ok t => .ok ((t.setNruns (rleRuns inp s.unitSize.toNat).length).setEfficiency inp.length out.length)

/-- `Body_COMPRESS` for METHOD = 1 on the input bytes (R233). UNIT_SIZE is not checked. -/
def bodyCompressHuf (s : State) (inp : Bytes) : Except Cause State :=
  match s.compressExt with
  | .error c => .error c
  | .ok ext =>
    let out := compressHuf inp ext
    match s.emit out with
    | .error c => .error c
    | .ok t => .ok ((t.hufEncodeWrites inp (hufEncodeBody inp).2).setEfficiency inp.length out.length)

/-- `Body_COMPRESS` (R233). -/
def bodyCompress (method : BitVec 2) (s : State) : Except Cause State :=
  match s.srcInput with
  | .error c => .error c
  | .ok inp =>
    if method = 0#2 then bodyCompressRle s inp
    else if method = 1#2 then bodyCompressHuf s inp
    else .error .cfgMethod

/-- The failure write set of COMPRESS (R41): by METHOD. -/
def State.failCompress (method : BitVec 2) (s : State) : State :=
  if method = 0#2 then { s.failRle with efficiency := 0 }
  else if method = 1#2 then { s.failHufEncode with efficiency := 0 }
  else { s.spoilDst with efficiency := 0 }

/-- `EXT[0..len(e)) <- e`, `x[EXT_LEN] <- len(e)` (R234). -/
def State.setExt (s : State) (e : Bytes) : State :=
  { s with ext := s.ext.write 0 e, extLen := BitVec.ofNat 32 e.length }

/-- The writes of EXTRACT besides DST and EXT (R234). -/
def State.extractWrites (s : State) : Extracted → State
  | .rle _ n => s.setNruns n
  | .huf _ tree pad => s.hufDecodeWrites tree pad

/-- DST and DST_LEN, or CAP_DST. RLE output is not expanded where it is too long (log 15). -/
def State.emitExtracted (s : State) : Extracted → Except Cause State
  | .rle runs _ => s.emitRuns runs
  | .huf out _ _ => s.emit out

/-- `Body_EXTRACT` (R234); CAP_EXT is tested before CAP_DST (R95). -/
def bodyExtract (s : State) : Except Cause State :=
  match s.srcInput with
  | .error c => .error c
  | .ok inp =>
    match extractOne inp with
    | .error c => .error c
    | .ok (x, e) =>
      if s.params.extCap < e.length then .error .capExt
      else
        match s.emitExtracted x with
        | .error c => .error c
        | .ok t => .ok ((t.extractWrites x).setExt e)

/-- `SRC[0..3)` where SRC_LEN ≥ 3, as the failure column of EXTRACT reads it; SRC ends at SRC_CAP (log 13). -/
def State.srcTag (s : State) : Bytes :=
  if 3 ≤ s.srcLen.toNat then s.bufBytes .src 0 (min 3 s.params.srcCap) else []

/-- The failure write set of EXTRACT (R41): by the tag, where SRC holds one. EXT and EXT_LEN are unchanged. -/
def State.failExtract (s : State) : State :=
  if s.srcTag = tagRle then s.failRle
  else if s.srcTag = tagHuf then s.failHufDecode
  else s.spoilDst

/-- COMPRESS, OPCODE 0x30 (R233). -/
def execCompress (method : BitVec 2) (s : State) : Host.Outcome State Fault Refusal :=
  complete (State.failCompress method) s (bodyCompress method s)

/-- EXTRACT, OPCODE 0x31 (R234). METHOD is ignored (R93 (b)). -/
def execExtract (_method : BitVec 2) (s : State) : Host.Outcome State Fault Refusal :=
  complete State.failExtract s (bodyExtract s)

/-- The completion of a START with an OPCODE outside R92: CommandError(CMD_ILLEGAL) and DST_LEN <- 0, tested before
SRC is considered; DST is unchanged (R235, R93 (a)). -/
def execIllegal (s : State) : Host.Outcome State Fault Refusal :=
  complete State.noOutput s (.error .cmdIllegal)

end Sys2Proof.Machine
end

