-- ==== Sys2Proof/Machine/Dispatch.lean ====
section
/-! DEFINITION. The dispatch of 30_encoding.md R94: one arm for each command. `exec i s` is the completion event (R97)
of the command `i` in the state `s`. -/

namespace Sys2Proof.Machine

def exec (i : Instr) (s : State) : Host.Outcome State Fault Refusal :=
  match i with
  | .pack m => Sys2Proof.Machine.execPack m s
  | .unpack m => Sys2Proof.Machine.execUnpack m s
  | .hufBuild m => Sys2Proof.Machine.execHufBuild m s
  | .hufCodes m => Sys2Proof.Machine.execHufCodes m s
  | .hufSerialize m => Sys2Proof.Machine.execHufSerialize m s
  | .hufDeserialize m => Sys2Proof.Machine.execHufDeserialize m s
  | .hufEncode m => Sys2Proof.Machine.execHufEncode m s
  | .hufDecode m => Sys2Proof.Machine.execHufDecode m s
  | .rleEncodeChunk m => Sys2Proof.Machine.execRleEncodeChunk m s
  | .rleDecodeChunk m => Sys2Proof.Machine.execRleDecodeChunk m s
  | .rleEncode m => Sys2Proof.Machine.execRleEncode m s
  | .rleDecode m => Sys2Proof.Machine.execRleDecode m s
  | .compress m => Sys2Proof.Machine.execCompress m s
  | .extract m => Sys2Proof.Machine.execExtract m s

end Sys2Proof.Machine
end

