-- ==== Sys2Proof/Machine/Sequencer.lean ====
section
/-! DEFINITION. What one step does: the turn of the block (30_encoding.md R94, R97) and the events of the host and the
platform (20_memory.md R61, 70_reset_and_hazards.md R280), in the one total order of R68. -/

namespace Sys2Proof.Machine

/-- The turn of the block. While SEQ = BUSY its one enabled step is the completion of the command that CMD holds
(R97); in IDLE it does nothing and keeps all its state (60_exceptions.md R265). -/
def blockTurn (s : State) : Host.Outcome State Fault Refusal :=
  match s.seq with
  | .idle => .next s
  | .busy =>
    match decode s.cmd with
    | .ok i => exec i s
    | .error _ => execIllegal s

/-- A bus transaction's outcome: it stops where the reset input is asserted (R280; log 10). -/
def onBus (s t : State) : Host.Outcome State Fault Refusal := if s.resetIn then .fault .busInReset else .next t

/-- One event of the total order (R68). -/
def perform (e : Event) (s : State) : Host.Outcome State Fault Refusal :=
  match e with
  | .read addr size => onBus s (s.busRead addr size)
  | .write addr size v => onBus s (s.busWrite addr size v)
  | .block => blockTurn s
  | .resetInput level => .next (s.driveReset level)

/-- One step: the next event, or, where none is left, the turn of the block, so that a BUSY block eventually completes
(the weak fairness of R97; log 7). -/
def stepState (s : State) : Host.Outcome State Fault Refusal :=
  match s.events with
  | [] => blockTurn s
  | e :: rest => perform e { s with events := rest }

/-- `s` with the CMD word `w` of `nbits` bits issued: CMD holds it, SEQ is BUSY as START leaves it (R96), the reset
input is released and no event stands before the turn of the block. CMD[31:10] keep reading 0 (R90). -/
def State.issueWord (s : State) (nbits w : Nat) : State :=
  { s with cmd := BitVec.ofNat 32 (w % 2 ^ nbits) &&& 0x3FF#32, resetIn := false, events := [] }.startCommand

end Sys2Proof.Machine
end

