-- ==== Sys2Proof/Machine/Step.lean ====
section
/-! DEFINITION. The step of the machine, and the placing of one command where the next step runs it. -/

namespace Sys2Proof.Machine

/-- One step: next state, fault or refusal (Sequencer.lean). -/
def step (s : State) : Host.Outcome State Fault Refusal := stepState s

/-- `s` with the table word `w` issued, so that the very next step completes exactly that command (log 7). -/
def State.withFetchWord (s : State) (nbits w : Nat) : State := s.issueWord nbits w

end Sys2Proof.Machine
end

