-- ==== Sys2Proof/Safety.lean ====
section
/-! DEFINITION. What the claims call safe: the invariants of the machine's state, in the terms of the rules. -/

namespace Sys2Proof.Machine

/-- The three buffers are in canonical form and inside their capacities (R38, R5). -/
def State.memoryOk (s : State) : Bool :=
  s.src.wf s.params.srcCap && s.dst.wf s.params.dstCap && s.ext.wf s.params.extCap

/-- The reserved bits that read 0: CMD[31:10], ERRCODE[31:11], PAD[31:3], NLEAF[31:9] (R25, R26, R31, R34). -/
def State.reservedOk (s : State) : Bool :=
  s.cmd.toNat < 2 ^ 10 && s.errcode.toNat < 2 ^ 11 && s.pad.toNat < 2 ^ 3 && s.nleaf.toNat < 2 ^ 9

/-- The handshake of DONE, ERR, ERRCODE and SEQ: "DONE = ERR = 0 throughout BUSY" (R70), ERRCODE is 0 there (R96), ERR
is never set without an error code (R24), and the block is IDLE and not DONE while the reset input is asserted
(R280). -/
def State.handshakeOk (s : State) : Bool :=
  (!s.busy || (!s.done && !s.err && s.errcode == 0)) && (!s.err || s.errcode != 0)
    && (!s.resetIn || (!s.busy && !s.done))

/-- The retained tables: a held tree has a Node as its root and at most NODE_CAP nodes (R36), NLEAF is its leaf count
(R34), and a valid CODE table holds the codes of the held tree (R37). -/
def State.tablesOk (s : State) : Prop :=
  (∀ t, s.tree = some t → t.isNode = true ∧ t.size ≤ Config.nodeCap)
    ∧ s.nleaf = BitVec.ofNat 32 (leafCount s.tree)
    ∧ (s.codesValid = true →
        ∃ t, s.tree = some t ∧ s.codeLen = codeLenTable (deriveCodes t) ∧ s.codeBits = codeBitsTable (deriveCodes t))

/-- DST[0..DST_LEN) is exactly what DST_LEN says: every byte of it has a specified content, and it lies inside
DST_CAP (R28). -/
def State.outputOk (s : State) : Prop :=
  s.dstLen.toNat ≤ s.params.dstCap ∧ ∀ i, i < s.dstLen.toNat → (s.dst.byte? i).isSome = true

/-- The input bytes of a command: `SRC[0..x[SRC_LEN])`, a byte without a specified content being the free value the
command reads (R74, R43). -/
def State.input (s : State) : Bytes := s.bufBytes .src 0 s.srcLen.toNat

/-- A command that reads SRC (column "reads" of R92). -/
def readsSrc : Instr → Bool
  | .hufCodes _ => false
  | .hufSerialize _ => false
  | .pack _ => true
  | .unpack _ => true
  | .hufBuild _ => true
  | .hufDeserialize _ => true
  | .hufEncode _ => true
  | .hufDecode _ => true
  | .rleEncodeChunk _ => true
  | .rleDecodeChunk _ => true
  | .rleEncode _ => true
  | .rleDecode _ => true
  | .compress _ => true
  | .extract _ => true

/-- The valid output of a command: DST[0..DST_LEN) is exactly `out` (R28). -/
def State.outputIs (s : State) (out : Bytes) : Prop :=
  s.dstLen.toNat = out.length ∧ ∀ i, i < out.length → s.dst.byte? i = out[i]?

/-- The node a path of bits leads to from the root: 0 to the left child, 1 to the right child (R154, R182). -/
def CodeTree.follow : CodeTree → Bits → Option CodeTree
  | t, [] => some t
  | .leaf _, _ :: _ => none
  | .node _ l r, bit :: rest => CodeTree.follow (if bit then r else l) rest

/-- The sum of the leaf weights of a tree, a leaf of byte b weighing `w b` (R153). -/
def CodeTree.weight (w : Byte → Nat) : CodeTree → Nat
  | .leaf b => w b
  | .node _ l r => l.weight w + r.weight w

/-- Every Node's frequency is the sum of the leaf weights under its children (R153). -/
def CodeTree.freqsAre (w : Byte → Nat) : CodeTree → Prop
  | .leaf _ => True
  | .node f l r => f.toNat = l.weight w + r.weight w ∧ l.freqsAre w ∧ r.freqsAre w

/-! ### The failure column of R41 -/

/-- What a failed command clears beyond DST and DST_LEN (R41): PAD, NRUNS, EFFICIENCY, FREQ with its flag, TREE with its
flag and NLEAF, CODE with its flag. -/
structure FailureColumn where
  pad : Bool := false
  nruns : Bool := false
  efficiency : Bool := false
  freq : Bool := false
  tree : Bool := false
  codes : Bool := false
deriving DecidableEq, Repr

/-- PACK, UNPACK. -/
def packerColumn : FailureColumn := { pad := true }

/-- HUF_ENCODE. -/
def hufEncodeColumn : FailureColumn := { pad := true, freq := true, tree := true, codes := true }

/-- HUF_DECODE. -/
def hufDecodeColumn : FailureColumn := { pad := true, tree := true, codes := true }

/-- The four RLE commands. -/
def rleColumn : FailureColumn := { nruns := true }

/-- The failure column of a command in a state: COMPRESS by METHOD, EXTRACT by the tag SRC holds (R41). -/
def State.failureColumn (s : State) : Instr → FailureColumn
  | .pack _ => packerColumn
  | .unpack _ => packerColumn
  | .hufBuild _ => { freq := true, tree := true, codes := true }
  | .hufCodes _ => { codes := true }
  | .hufSerialize _ => {}
  | .hufDeserialize _ => { tree := true, codes := true }
  | .hufEncode _ => hufEncodeColumn
  | .hufDecode _ => hufDecodeColumn
  | .rleEncodeChunk _ => rleColumn
  | .rleDecodeChunk _ => rleColumn
  | .rleEncode _ => rleColumn
  | .rleDecode _ => rleColumn
  | .compress m =>
    if m = 0#2 then { rleColumn with efficiency := true }
    else if m = 1#2 then { hufEncodeColumn with efficiency := true }
    else { efficiency := true }
  | .extract _ =>
    if s.srcTag = [0x52#8, 0x4C#8, 0x45#8] then rleColumn
    else if s.srcTag = [0x48#8, 0x55#8, 0x46#8] then hufDecodeColumn
    else {}

/-- `t` is `s` after a command failed with the ERRCODE word `e`: DST_LEN and what the column names are cleared, DST may
hold anything (R290), a table whose flag is cleared may hold anything, and everything else keeps its value. -/
def State.failedWith (s : State) (col : FailureColumn) (e : Word) (t : State) : Prop :=
  t = { s with
    dst := [], dstLen := 0, pad := if col.pad then 0 else s.pad, nruns := if col.nruns then 0 else s.nruns,
    efficiency := if col.efficiency then 0 else s.efficiency, freq := if col.freq then t.freq else s.freq,
    freqValid := if col.freq then false else s.freqValid, tree := if col.tree then none else s.tree,
    nleaf := if col.tree then 0 else s.nleaf, codeLen := if col.codes then t.codeLen else s.codeLen,
    codeBits := if col.codes then t.codeBits else s.codeBits,
    codesValid := if col.codes then false else s.codesValid, errcode := e, err := true, done := true, seq := .idle,
    draws := s.draws + 1 }

/-- The command `i` at `s` ends in the error `e` with exactly its failure column. -/
def State.failsWith (s : State) (i : Instr) (e : Word) : Prop :=
  ∃ t, exec i s = .next t ∧ s.failedWith (s.failureColumn i) e t

/-- A decimal field that R107 rejects: empty, not all digits, or a value outside lo .. hi. -/
def badNumber (f : Bytes) (lo hi : Nat) : Prop := f = [] ∨ (∃ c ∈ f, isDigit c = false) ∨ val f < lo ∨ hi < val f

/-- The machine does not stop at `s`. -/
def State.safe (s : State) : Prop := ∃ t, step s = .next t

end Sys2Proof.Machine
end

