-- ==== Sys2Proof/Certificates/Slice0/Obligations.lean ====
section
/-! DEFINITION. The statements for the provers, each a proposition about the machine, in the order of
OBLIGATIONS.json. A frame is written `t = { s with … }`: every field that is not listed keeps its value. -/

open Sys2Proof Sys2Proof.Machine

/-! ### Encoding and decoding -/

/-- R90, R92: the decoder gives back every command from its CMD word, with every METHOD, and the word's reserved bits
are 0. -/
def Obligations.DecodeInvertsEncode : Prop :=
  ∀ i : Instr, decode (encode i) = .ok i ∧ reservedBitsZero (encode i) = true

/-- R90, R92, R93 (a): a CMD word with its reserved bits 0 and an OPCODE of the map decodes to a command whose word it
is; a word with any other OPCODE is rejected by its OPCODE. -/
def Obligations.EncodeInvertsDecode : Prop :=
  ∀ w : Word,
    (wellFormedWord w = true → ∃ i, decode w = .ok i ∧ encode i = w) ∧
      (legalOpcode (w.extractLsb' 0 8) = false → decode w = .error (.illegalOpcode (w.extractLsb' 0 8)))

/-- R92: words written out from the map decode to the commands they stand for. -/
def Obligations.SampleWordsDecode : Prop :=
  decode 0x00000001#32 = .ok (.pack 0) ∧ decode 0x00000013#32 = .ok (.hufDeserialize 0) ∧
    decode 0x00000022#32 = .ok (.rleEncode 0) ∧ decode 0x00000130#32 = .ok (.compress 1) ∧
    decode 0x00000331#32 = .ok (.extract 3) ∧ decode 0x00000000#32 = .error (.illegalOpcode 0x00#8)

/-! ### Steps -/

/-- R94, R97, R265: while SEQ = BUSY the turn of the block runs exactly the command that CMD decodes to; in IDLE that
turn keeps all state. That the step where no event is left, and a step whose event is `.block`, are the turn of the
block is the model's choice (log 7). -/
def Obligations.StepRunsDecodedCommand : Prop :=
  (∀ (s : State) (i : Instr), s.seq = .busy → decode s.cmd = .ok i →
    (s.events = [] → step s = exec i s) ∧
      ∀ rest, s.events = .block :: rest → step s = exec i { s with events := rest }) ∧
  ∀ s : State, s.seq = .idle →
    (s.events = [] → step s = .next s) ∧ ∀ rest, s.events = .block :: rest → step s = .next { s with events := rest }

/-- R235: an OPCODE outside the map completes with ERRCODE 0x0430 and DST_LEN 0, whatever SRC_LEN is, and writes
nothing else beyond STATUS; DST too is unchanged. Model's choices: the turn of the block is the step where no event is
left, or a step whose event is `.block` (log 7); the draw counter is free (log 2). -/
def Obligations.IllegalOpcodeEndsInCommandError : Prop :=
  ∀ s : State, s.seq = .busy → legalOpcode (s.cmd.extractLsb' 0 8) = false →
    (s.events = [] → ∃ t, step s = .next t ∧
      t = { s with dstLen := 0, errcode := 0x430, err := true, done := true, seq := .idle, draws := t.draws }) ∧
    ∀ rest, s.events = .block :: rest → ∃ t, step s = .next t ∧
      t = { s with
        dstLen := 0, errcode := 0x430, err := true, done := true, seq := .idle, events := rest, draws := t.draws }

/-! ### The bit-packer -/

/-- R133, R130, R131, R41: PACK of bit symbols. Bit 7 − i mod 8 of output byte i / 8 is input symbol i, the pad bits
are 0, the trailer is the pad digit. Model's choices: the draw counter advances by one (log 2). -/
def Obligations.PackWritesPackedBits : Prop :=
  ∀ (m : BitVec 2) (s : State) (n : Nat), s.params.legal = true → s.srcLen.toNat ≤ s.params.srcCap →
    n = s.srcLen.toNat → (∀ b ∈ s.input, b = 0x30#8 ∨ b = 0x31#8) → (n + 7) / 8 + 1 ≤ s.params.dstCap →
    ∃ t, exec (.pack m) s = .next t ∧
      t = { s with
        dst := t.dst, dstLen := t.dstLen, pad := t.pad, errcode := 0, done := true, seq := .idle,
        draws := s.draws + 1 } ∧
      t.dstLen.toNat = (n + 7) / 8 + 1 ∧ t.pad.toNat = 8 * ((n + 7) / 8) - n ∧
      (∀ i, i < n → ∃ b, t.dst.byte? (i / 8) = some b ∧
        b.getLsbD (7 - i % 8) = (s.input[i]? == some 0x31#8)) ∧
      (∀ i, n ≤ i → i < 8 * ((n + 7) / 8) → ∃ b, t.dst.byte? (i / 8) = some b ∧ b.getLsbD (7 - i % 8) = false) ∧
      t.dst.byte? ((n + 7) / 8) = some (0x30#8 + t.pad.setWidth 8)

/-- R134, R132, R41: UNPACK of data bytes and a pad digit. Output symbol i is bit 7 − i mod 8 of data byte i / 8; the
pad bits are discarded whatever they are. Model's choices: the draw counter advances by one (log 2). -/
def Obligations.UnpackWritesBitSymbols : Prop :=
  ∀ (m : BitVec 2) (s : State) (data : Bytes) (pad : Nat), s.params.legal = true →
    s.srcLen.toNat ≤ s.params.srcCap → s.input = data ++ [0x30#8 + BitVec.ofNat 8 pad] → pad ≤ 7 →
    pad ≤ 8 * data.length → 8 * data.length - pad ≤ s.params.dstCap →
    ∃ t, exec (.unpack m) s = .next t ∧
      t = { s with
        dst := t.dst, dstLen := t.dstLen, pad := t.pad, errcode := 0, done := true, seq := .idle,
        draws := s.draws + 1 } ∧
      t.dstLen.toNat = 8 * data.length - pad ∧ t.pad.toNat = pad ∧
      ∀ i, i < 8 * data.length - pad →
        t.dst.byte? i =
          (data[i / 8]?).map fun b => if b.getLsbD (7 - i % 8) then 0x31#8 else 0x30#8

/-- R135: unpacking a packed bit sequence gives its bits and its pad count, which is at most 7. -/
def Obligations.UnpackInvertsPack : Prop :=
  ∀ bits : Bits, unpackBits (packed bits) = .ok (bits, padCount bits.length) ∧ padCount bits.length ≤ 7

/-- R132, R133, R134, R95, R252, R41: the errors of the bit-packer, with the failure write set: an input byte that is
no bit symbol (PACK); an empty input, a trailer that is no digit 0..7, or pad bits without a data byte (UNPACK); an
output longer than DST_CAP. Model's choices: the draw counter advances by one (log 2); `[]` stands for contents that
may be any (log 4, 6). -/
def Obligations.BitPackerFormatErrors : Prop :=
  (∀ (m : BitVec 2) (s : State), s.srcLen.toNat ≤ s.params.srcCap →
    (∃ b ∈ s.input, b ≠ 0x30#8 ∧ b ≠ 0x31#8) →
    exec (.pack m) s = .next { s with
      dst := [], dstLen := 0, pad := 0, errcode := 0x211, err := true, done := true, seq := .idle,
      draws := s.draws + 1 }) ∧
  (∀ (m : BitVec 2) (s : State), s.srcLen.toNat ≤ s.params.srcCap →
    (s.input = [] ∨ (∃ data b, s.input = data ++ [b] ∧ (b < 0x30#8 ∨ 0x37#8 < b)) ∨
      (∃ b, s.input = [b] ∧ 0x30#8 < b)) →
    exec (.unpack m) s = .next { s with
      dst := [], dstLen := 0, pad := 0, errcode := 0x210, err := true, done := true, seq := .idle,
      draws := s.draws + 1 }) ∧
  (∀ (m : BitVec 2) (s : State), s.srcLen.toNat ≤ s.params.srcCap → (∀ b ∈ s.input, b = 0x30#8 ∨ b = 0x31#8) →
    s.params.dstCap < (s.srcLen.toNat + 7) / 8 + 1 → s.failsWith (.pack m) 0x321) ∧
  ∀ (m : BitVec 2) (s : State) (bits : Bits) (pad : Nat), s.srcLen.toNat ≤ s.params.srcCap →
    unpackBits s.input = .ok (bits, pad) → s.params.dstCap < bits.length → s.failsWith (.unpack m) 0x321

/-! ### The Huffman tree -/

/-- R160, R150, R35, R34, R41: HUF_BUILD counts every byte value, holds the built tree unless the input is empty, and
counts its distinct bytes; the code table then holds anything. Model's choices: the draw counter advances by one (log
2); DST, all of it beyond DST_LEN = 0, may hold anything, which `[]` says (log 4, 5). -/
def Obligations.HufBuildCountsAndBuilds : Prop :=
  ∀ (m : BitVec 2) (s : State), s.params.legal = true → s.srcLen.toNat ≤ s.params.srcCap →
    ∃ t, exec (.hufBuild m) s = .next t ∧
      t = { s with
        freq := t.freq, freqValid := true, tree := buildTree s.input, nleaf := t.nleaf, codeLen := t.codeLen,
        codeBits := t.codeBits, codesValid := false, dst := [], dstLen := 0, errcode := 0, done := true, seq := .idle,
        draws := s.draws + 1 } ∧
      (∀ b : Byte, (t.freq[b.toNat]'b.isLt).toNat = s.input.count b) ∧
      t.nleaf.toNat = s.input.dedup.length ∧ (t.tree = none ↔ s.input = [])

/-- R153: the invariants of a tree built from at least two distinct bytes, for all data whose length a 32-bit
frequency holds (R11); R5 allows at most 2^24. -/
def Obligations.BuiltTreeInvariants : Prop :=
  ∀ data : Bytes, data.length < 2 ^ 32 → 2 ≤ data.dedup.length →
    ∃ t, buildTree data = some t ∧ t.isNode = true ∧ t.freqsAre (fun b => data.count b) ∧
      t.weight (fun b => data.count b) = data.length ∧ t.leaves.Perm data.dedup ∧
      t.size = 2 * data.dedup.length - 1 ∧ t.size ≤ 511

/-- R152: one distinct byte b, occurring f times, gives Node(2f, Leaf(b), Leaf(b)), whose code is the one bit 1. -/
def Obligations.DegenerateTreeOfOneByte : Prop :=
  ∀ (b : Byte) (f : Nat), 1 ≤ f →
    buildTree (List.replicate f b) = some (.node (BitVec.ofNat 32 (2 * f)) (.leaf b) (.leaf b)) ∧
      ∀ x, deriveCodes (.node (BitVec.ofNat 32 (2 * f)) (.leaf b) (.leaf b)) x = if x = b then some [true] else none

/-- R161, R154, R37, R41: HUF_CODES of a held tree. A byte outside the tree gets no code; the code of a byte of the
tree is the path of its rightmost leaf, first bit at bit 0, every bit beyond its length 0. Model's choices: the draw
counter advances by one (log 2); DST, all of it beyond DST_LEN = 0, may hold anything, which `[]` says (log 4, 5). -/
def Obligations.HufCodesWritesRightmostPaths : Prop :=
  ∀ (m : BitVec 2) (s : State) (t0 : CodeTree), s.tree = some t0 → t0.size ≤ 511 →
    ∃ t, exec (.hufCodes m) s = .next t ∧
      t = { s with
        codeLen := t.codeLen, codeBits := t.codeBits, codesValid := true, dst := [], dstLen := 0, errcode := 0, done := true,
        seq := .idle, draws := s.draws + 1 } ∧
      ∀ b : Byte,
        (b ∉ t0.leaves → t.codeLen[b.toNat]'b.isLt = 0 ∧ t.codeBits[b.toNat]'b.isLt = 0) ∧
        (b ∈ t0.leaves → ∃ p, t0.follow p = some (.leaf b) ∧ (t.codeLen[b.toNat]'b.isLt).toNat = p.length ∧
          (∀ i, (t.codeBits[b.toNat]'b.isLt).getLsbD i = p.getD i false) ∧
          ∀ q, t0.follow q = some (.leaf b) → q = p ∨ ∃ c, (c ++ [false]) <+: q ∧ (c ++ [true]) <+: p)

/-- R155: the codes of a tree built from at least two distinct bytes are prefix-free, each the path of its leaf; and
every code of any tree TREE can hold has length 1 .. 255. -/
def Obligations.CodesArePrefixFreePaths : Prop :=
  (∀ (data : Bytes) (t : CodeTree), 2 ≤ data.dedup.length → buildTree data = some t →
    (∀ b ∈ data, ∃ p, deriveCodes t b = some p ∧ t.follow p = some (.leaf b)) ∧
      ∀ b c p q, b ≠ c → deriveCodes t b = some p → deriveCodes t c = some q → ¬p <+: q) ∧
  ∀ (t : CodeTree) (b : Byte) (p : Bits), t.isNode = true → t.size ≤ 511 → deriveCodes t b = some p →
    1 ≤ p.length ∧ p.length ≤ 255

/-- R162, R156, R41: HUF_SERIALIZE delivers the stream of the held tree, and the empty stream without a tree. Model's
choices: the draw counter advances by one (log 2). -/
def Obligations.HufSerializeWritesStream : Prop :=
  ∀ (m : BitVec 2) (s : State), s.params.legal = true → (serializeTree s.tree).length ≤ s.params.dstCap →
    ∃ t, exec (.hufSerialize m) s = .next t ∧
      t = { s with
        dst := t.dst, dstLen := t.dstLen, errcode := 0, done := true, seq := .idle, draws := s.draws + 1 } ∧
      t.outputIs (serializeTree s.tree) ∧ (s.tree = none → t.dstLen = 0)

/-- R163, R158, R36, R41: HUF_DESERIALIZE of a stream that parses holds its tree, which has a Node as its root and at
most 511 nodes; FREQ is not changed and the code table then holds anything. Model's choices: the draw counter advances
by one (log 2); DST, all of it beyond DST_LEN = 0, may hold anything, which `[]` says (log 4, 5). -/
def Obligations.HufDeserializeLoadsTree : Prop :=
  ∀ (m : BitVec 2) (s : State) (t0 : CodeTree), s.srcLen.toNat ≤ s.params.srcCap →
    deserialize s.input = .ok t0 →
    t0.isNode = true ∧ t0.size ≤ 511 ∧
    ∃ t, exec (.hufDeserialize m) s = .next t ∧
      t = { s with
        tree := some t0, nleaf := t.nleaf, codeLen := t.codeLen, codeBits := t.codeBits, codesValid := false,
        dst := [], dstLen := 0, errcode := 0, done := true, seq := .idle, draws := s.draws + 1 } ∧
      t.nleaf.toNat = t0.leaves.dedup.length

/-- R159: parsing the stream of a tree that TREE can hold gives the tree back. -/
def Obligations.DeserializeInvertsSerialize : Prop :=
  ∀ t : CodeTree, t.isNode = true → t.size ≤ 511 → deserialize (serialize t) = .ok t

/-- R161, R162, R163, R157, R184, R95, R41: the errors of the tree commands and of HUF_ENCODE. HUF_CODES without a
tree is FMT_TREE_EMPTY, the code table then holding any value; a stream or body longer than DST_CAP is CAP_DST; an
input that does not parse ends HUF_DESERIALIZE with the parser's error and drops the tree. Model's choices: the draw
counter advances by one (log 2); `[]` stands for contents that may be any (log 4, 6). -/
def Obligations.TreeCommandErrors : Prop :=
  (∀ (m : BitVec 2) (s : State), s.tree = none →
    ∃ t, exec (.hufCodes m) s = .next t ∧
      t = { s with
        dst := [], dstLen := 0, codeLen := t.codeLen, codeBits := t.codeBits, codesValid := false,
        errcode := 0x216, err := true, done := true, seq := .idle, draws := s.draws + 1 }) ∧
  (∀ (m : BitVec 2) (s : State), s.params.dstCap < (serializeTree s.tree).length →
    exec (.hufSerialize m) s = .next { s with
      dst := [], dstLen := 0, errcode := 0x321, err := true, done := true, seq := .idle, draws := s.draws + 1 }) ∧
  (∀ (m : BitVec 2) (s : State) (c : Cause), s.srcLen.toNat ≤ s.params.srcCap → deserialize s.input = .error c →
    (c = .fmtTreeTruncated ∨ c = .fmtTreeToken ∨ c = .fmtTreeTrailing ∨ c = .fmtTreeLeafRoot ∨ c = .capTree) ∧
    ∃ t, exec (.hufDeserialize m) s = .next t ∧
      t = { s with
        dst := [], dstLen := 0, tree := none, nleaf := 0, codeLen := t.codeLen, codeBits := t.codeBits,
        codesValid := false, errcode := c.word, err := true, done := true, seq := .idle, draws := s.draws + 1 }) ∧
  ∀ (m : BitVec 2) (s : State), s.srcLen.toNat ≤ s.params.srcCap →
    s.params.dstCap < (hufEncodeBody s.input).1.length → s.failsWith (.hufEncode m) 0x321

/-! ### The Huffman codec -/

/-- R184, R180, R41: HUF_ENCODE of an input whose body fits delivers the body and its pad count and sets the tables of
its tree. Model's choices: the draw counter advances by one (log 2). -/
def Obligations.HufEncodeWritesBodyAndTables : Prop :=
  ∀ (m : BitVec 2) (s : State), s.params.legal = true → s.srcLen.toNat ≤ s.params.srcCap →
    (hufEncodeBody s.input).1.length ≤ s.params.dstCap →
    ∃ t, exec (.hufEncode m) s = .next t ∧
      t = { s with
        dst := t.dst, dstLen := t.dstLen, pad := t.pad, freq := t.freq, freqValid := true,
        tree := buildTree s.input, nleaf := t.nleaf, codeLen := t.codeLen, codeBits := t.codeBits,
        codesValid := !s.input.isEmpty, errcode := 0, done := true, seq := .idle, draws := s.draws + 1 } ∧
      t.outputIs (hufEncodeBody s.input).1 ∧ t.pad.toNat = (hufEncodeBody s.input).2 ∧
      (∀ b : Byte, (t.freq[b.toNat]'b.isLt).toNat = s.input.count b) ∧ t.nleaf.toNat = s.input.dedup.length ∧
      ∀ t0, buildTree s.input = some t0 →
        t.codeLen = codeLenTable (deriveCodes t0) ∧ t.codeBits = codeBitsTable (deriveCodes t0)

/-- R185, R183, R95, R41: HUF_DECODE of a body that decodes delivers its data and holds its tree. Of one that does
not, in the order of the checks: no CRLF is FMT_HEADER_LINES; an empty tree line before a payload is FMT_TREE_EMPTY; a
tree line that does not parse is the parser's error; a trailer that is no digit 0..7, or pad bits without a data byte,
is FMT_PAD; bits that do not walk to the root are FMT_BITS_TRUNCATED; data longer than DST_CAP is CAP_DST. Model's
choices: the draw counter advances by one (log 2); `[]` in the failure column stands for contents that may be any (log
4, 6). -/
def Obligations.HufDecodeWritesDataAndTree : Prop :=
  (∀ (m : BitVec 2) (s : State) (out : Bytes) (tree : Option CodeTree) (pad : Nat), s.params.legal = true →
    s.srcLen.toNat ≤ s.params.srcCap → hufDecodeBody s.input = .ok (out, tree, pad) →
    out.length ≤ s.params.dstCap →
    ∃ t, exec (.hufDecode m) s = .next t ∧
      t = { s with
        dst := t.dst, dstLen := t.dstLen, pad := t.pad, tree := tree, nleaf := t.nleaf, codeLen := t.codeLen,
        codeBits := t.codeBits, codesValid := false, errcode := 0, done := true, seq := .idle,
        draws := s.draws + 1 } ∧
      t.outputIs out ∧ t.pad.toNat = pad ∧ pad ≤ 7 ∧ t.nleaf.toNat = leafCount tree) ∧
  ∀ (m : BitVec 2) (s : State), s.srcLen.toNat ≤ s.params.srcCap →
    (split1 s.input = none → s.failsWith (.hufDecode m) 0x219) ∧
    (∀ treeLine payload, split1 s.input = some (treeLine, payload) → payload ≠ [] →
      (treeLine = [] → s.failsWith (.hufDecode m) 0x216) ∧
      (∀ c, treeLine ≠ [] → deserialize treeLine = .error c → s.failsWith (.hufDecode m) c.word) ∧
      ∀ t0, deserialize treeLine = .ok t0 →
        ((∃ data b, payload = data ++ [b] ∧ (b < 0x30#8 ∨ 0x37#8 < b)) ∨ (∃ b, payload = [b] ∧ 0x30#8 < b) →
          s.failsWith (.hufDecode m) 0x210) ∧
        ∀ bits pad c, unpackBits payload = .ok (bits, pad) → walk t0 bits = .error c →
          s.failsWith (.hufDecode m) 0x218) ∧
    ∀ out tree pad, hufDecodeBody s.input = .ok (out, tree, pad) → s.params.dstCap < out.length →
      s.failsWith (.hufDecode m) 0x321

/-- R182: a bit sequence made of paths to leaves decodes to the bytes of those leaves, and one that ends inside a path
is FMT_BITS_TRUNCATED. -/
def Obligations.WalkReadsPathsToLeaves : Prop :=
  ∀ (t : CodeTree) (paths : List (Bits × Byte)), t.isNode = true →
    (∀ x ∈ paths, t.follow x.1 = some (.leaf x.2)) →
    walk t (paths.flatMap Prod.fst) = .ok (paths.map Prod.snd) ∧
      ∀ rest f l r, rest ≠ [] → t.follow rest = some (.node f l r) →
        walk t (paths.flatMap Prod.fst ++ rest) = .error .fmtBitsTruncated

/-- R186: decoding the Huffman body of any data of length at most 2^24 gives the data back. -/
def Obligations.HufDecodeInvertsEncode : Prop :=
  ∀ data : Bytes, data.length ≤ 2 ^ 24 →
    ∃ tree pad, hufDecodeBody (hufEncodeBody data).1 = .ok (data, tree, pad)

/-! ### RLE -/

/-- R201: the runs of a chunk expand to the chunk; a unit size of at least its length gives one literal run; otherwise
every unit but the last has the unit size, the last at most that, and neighbouring units differ. -/
def Obligations.ChunkRunsAreExactAndMaximal : Prop :=
  ∀ (ch : Bytes) (u : Nat), ch.length ≤ 1000 → 1 ≤ u →
    expandRuns (encodeChunk ch u) = ch ∧ (ch.length ≤ u → encodeChunk ch u = [(1, ch)]) ∧
      (u < ch.length →
        (∀ x ∈ (encodeChunk ch u).dropLast, x.2.length = u) ∧
        (∀ x ∈ encodeChunk ch u, 1 ≤ x.2.length ∧ x.2.length ≤ u) ∧
        (encodeChunk ch u).IsChain fun x y => x.2 ≠ y.2)

/-- R214: every count the encoder writes is 1 .. ceil(1000 / u), and the runs expand to the data. -/
def Obligations.RunCountsAreBounded : Prop :=
  ∀ (data : Bytes) (u : Nat), 1 ≤ u →
    expandRuns (rleRuns data u) = data ∧
      ∀ x ∈ rleRuns data u, 1 ≤ x.1 ∧ x.1 ≤ (1000 + u - 1) / u ∧ x.1 ≤ 1000

/-- R215: decoding the RLE body of any data, for any unit size a register holds but 0, gives the data back. -/
def Obligations.RleDecodeInvertsEncode : Prop :=
  ∀ (data : Bytes) (u : Nat), 1 ≤ u → u < 2 ^ 32 →
    ∃ runs n, rleDecodeBody (rleEncodeBody data u) = .ok (runs, n) ∧ expandRuns runs = data ∧
      n = (rleRuns data u).length

/-- R210, R106, R41: RLE_ENCODE_CHUNK of at most 1000 bytes delivers the counts line, CRLF and the unit bytes. Model's
choices: the draw counter advances by one (log 2). -/
def Obligations.RleEncodeChunkWritesChunkBody : Prop :=
  ∀ (m : BitVec 2) (s : State) (runs : List Run), s.params.legal = true → s.srcLen.toNat ≤ s.params.srcCap →
    s.unitSize ≠ 0 → s.srcLen.toNat ≤ 1000 → runs = encodeChunk s.input s.unitSize.toNat →
    (countsLine (runs.map Prod.fst) ++ [0x0D#8, 0x0A#8] ++ runs.flatMap Prod.snd).length ≤ s.params.dstCap →
    ∃ t, exec (.rleEncodeChunk m) s = .next t ∧
      t = { s with
        dst := t.dst, dstLen := t.dstLen, nruns := t.nruns, errcode := 0, done := true, seq := .idle,
        draws := s.draws + 1 } ∧
      t.outputIs (countsLine (runs.map Prod.fst) ++ [0x0D#8, 0x0A#8] ++ runs.flatMap Prod.snd) ∧
      t.nruns.toNat = runs.length

/-- R211, R204, R41: RLE_DECODE_CHUNK of a chunk body that decodes delivers the expansion of its runs, with the unit
size of the register. Model's choices: the draw counter advances by one (log 2). -/
def Obligations.RleDecodeChunkWritesExpansion : Prop :=
  ∀ (m : BitVec 2) (s : State) (line lits : Bytes) (counts : List Nat) (runs : List Run), s.params.legal = true →
    s.srcLen.toNat ≤ s.params.srcCap → s.unitSize ≠ 0 → split1 s.input = some (line, lits) →
    parseCounts line = .ok counts → replay s.unitSize.toNat counts 1000 lits = .ok runs →
    (expandRuns runs).length ≤ s.params.dstCap →
    ∃ t, exec (.rleDecodeChunk m) s = .next t ∧
      t = { s with
        dst := t.dst, dstLen := t.dstLen, nruns := t.nruns, errcode := 0, done := true, seq := .idle,
        draws := s.draws + 1 } ∧
      t.outputIs (expandRuns runs) ∧ t.nruns.toNat = counts.length

/-- R212, R203, R41: RLE_ENCODE delivers the unit size line, the counts line and the unit bytes of the data's runs.
Model's choices: the draw counter advances by one (log 2). -/
def Obligations.RleEncodeWritesBody : Prop :=
  ∀ (m : BitVec 2) (s : State) (runs : List Run) (out : Bytes), s.params.legal = true →
    s.srcLen.toNat ≤ s.params.srcCap → s.unitSize ≠ 0 → runs = rleRuns s.input s.unitSize.toNat →
    out = dec s.unitSize.toNat ++ [0x0D#8, 0x0A#8] ++ countsLine (runs.map Prod.fst) ++ [0x0D#8, 0x0A#8] ++
      runs.flatMap Prod.snd →
    out.length ≤ s.params.dstCap →
    ∃ t, exec (.rleEncode m) s = .next t ∧
      t = { s with
        dst := t.dst, dstLen := t.dstLen, nruns := t.nruns, errcode := 0, done := true, seq := .idle,
        draws := s.draws + 1 } ∧
      t.outputIs out ∧ t.nruns.toNat = runs.length

/-- R213, R206, R41: RLE_DECODE of a body that decodes delivers the expansion of its runs; the unit size is that of
the body, and UNIT_SIZE is not read. Model's choices: the draw counter advances by one (log 2). -/
def Obligations.RleDecodeWritesExpansion : Prop :=
  ∀ (m : BitVec 2) (s : State) (unitLine countLine rest lits : Bytes) (u : Nat) (counts : List Nat)
    (runs : List Run), s.params.legal = true → s.srcLen.toNat ≤ s.params.srcCap →
    split1 s.input = some (unitLine, rest) → split1 rest = some (countLine, lits) →
    num unitLine 1 (2 ^ 32 - 1) = .ok u → parseCounts countLine = .ok counts →
    replay u counts 1000 lits = .ok runs → (expandRuns runs).length ≤ s.params.dstCap →
    ∃ t, exec (.rleDecode m) s = .next t ∧
      t = { s with
        dst := t.dst, dstLen := t.dstLen, nruns := t.nruns, errcode := 0, done := true, seq := .idle,
        draws := s.draws + 1 } ∧
      t.outputIs (expandRuns runs) ∧ t.nruns.toNat = counts.length

/-- R200, R205, R206, R107, R210, R211, R212, R213, R95, R252, R41: the errors of the RLE commands with the failure
write set. A unit size of 0, and for RLE_ENCODE_CHUNK an input of more than 1000 bytes, are configuration errors; a
missing CRLF is FMT_HEADER_LINES; a unit size or a count that R107 rejects is FMT_NUMBER; literal bytes left over are
FMT_RLE_LITERALS; an output longer than DST_CAP is CAP_DST. Model's choices: the draw counter advances by one (log 2);
`[]` stands for contents that may be any (log 4, 6). -/
def Obligations.RleCommandErrors : Prop :=
  ∀ (m : BitVec 2) (s : State), s.srcLen.toNat ≤ s.params.srcCap →
    (∀ i, s.unitSize = 0 → i = .rleEncodeChunk m ∨ i = .rleDecodeChunk m ∨ i = .rleEncode m →
      exec i s = .next { s with
        dst := [], dstLen := 0, nruns := 0, errcode := 0x101, err := true, done := true, seq := .idle,
        draws := s.draws + 1 }) ∧
    (s.unitSize ≠ 0 →
      (1000 < s.srcLen.toNat → exec (.rleEncodeChunk m) s = .next { s with
        dst := [], dstLen := 0, nruns := 0, errcode := 0x104, err := true, done := true, seq := .idle,
        draws := s.draws + 1 }) ∧
      (s.srcLen.toNat ≤ 1000 → s.params.dstCap < (chunkBody (encodeChunk s.input s.unitSize.toNat)).length →
        s.failsWith (.rleEncodeChunk m) 0x321) ∧
      (s.params.dstCap < (rleEncodeBody s.input s.unitSize.toNat).length → s.failsWith (.rleEncode m) 0x321) ∧
      (split1 s.input = none → s.failsWith (.rleDecodeChunk m) 0x219) ∧
      ∀ countLine lits, split1 s.input = some (countLine, lits) →
        (countLine ≠ [] → (∃ f ∈ splitCommas countLine, badNumber f 1 999999999) →
          s.failsWith (.rleDecodeChunk m) 0x21B) ∧
        ∀ counts, parseCounts countLine = .ok counts →
          (∀ c, replay s.unitSize.toNat counts 1000 lits = .error c → s.failsWith (.rleDecodeChunk m) 0x21C) ∧
          ∀ runs, replay s.unitSize.toNat counts 1000 lits = .ok runs →
            s.params.dstCap < (expandRuns runs).length → s.failsWith (.rleDecodeChunk m) 0x321) ∧
    (split1 s.input = none ∨ (∃ l rest, split1 s.input = some (l, rest) ∧ split1 rest = none) →
      s.failsWith (.rleDecode m) 0x219) ∧
    (∀ unitLine rest countLine lits, split1 s.input = some (unitLine, rest) → split1 rest = some (countLine, lits) →
      (badNumber unitLine 1 (2 ^ 32 - 1) → s.failsWith (.rleDecode m) 0x21B) ∧
      ∀ u, num unitLine 1 (2 ^ 32 - 1) = .ok u →
        (countLine ≠ [] → (∃ f ∈ splitCommas countLine, badNumber f 1 999999999) →
          s.failsWith (.rleDecode m) 0x21B) ∧
        ∀ counts c, parseCounts countLine = .ok counts → replay u counts 1000 lits = .error c →
          s.failsWith (.rleDecode m) 0x21C) ∧
    ∀ runs n, rleDecodeBody s.input = .ok (runs, n) → s.params.dstCap < (expandRuns runs).length →
      exec (.rleDecode m) s = .next { s with
        dst := [], dstLen := 0, nruns := 0, errcode := 0x321, err := true, done := true, seq := .idle,
        draws := s.draws + 1 }

/-! ### The engine -/

/-- R233, R230, R232, R41: COMPRESS with METHOD = 0 delivers the RLE artifact; EFFICIENCY is the input length less the
output length. Model's choices: the draw counter advances by one (log 2). -/
def Obligations.CompressRleWritesArtifact : Prop :=
  ∀ (s : State) (ext out : Bytes), s.params.legal = true → s.srcLen.toNat ≤ s.params.srcCap → s.unitSize ≠ 0 →
    s.extLen.toNat ≤ s.params.extCap → ext = s.bufBytes .ext 0 s.extLen.toNat →
    (∀ b ∈ ext, b ≠ 0x0D#8 ∧ b ≠ 0x0A#8) →
    out = [0x52#8, 0x4C#8, 0x45#8, 0x2C#8] ++ ext ++ [0x0D#8, 0x0A#8] ++ rleEncodeBody s.input s.unitSize.toNat →
    out.length ≤ s.params.dstCap →
    ∃ t, exec (.compress 0) s = .next t ∧
      t = { s with
        dst := t.dst, dstLen := t.dstLen, nruns := t.nruns, efficiency := t.efficiency, errcode := 0, done := true,
        seq := .idle, draws := s.draws + 1 } ∧
      t.outputIs out ∧ t.nruns.toNat = (rleRuns s.input s.unitSize.toNat).length ∧
      t.efficiency.toInt = (s.srcLen.toNat : Int) - (out.length : Int)

/-- R233, R230, R232, R41: COMPRESS with METHOD = 1 delivers the Huffman artifact and sets the tables as HUF_ENCODE
does; UNIT_SIZE is not checked. Model's choices: the draw counter advances by one (log 2). -/
def Obligations.CompressHufWritesArtifact : Prop :=
  ∀ (s : State) (ext out : Bytes), s.params.legal = true → s.srcLen.toNat ≤ s.params.srcCap →
    s.extLen.toNat ≤ s.params.extCap → ext = s.bufBytes .ext 0 s.extLen.toNat →
    (∀ b ∈ ext, b ≠ 0x0D#8 ∧ b ≠ 0x0A#8) →
    out = [0x48#8, 0x55#8, 0x46#8, 0x2C#8] ++ ext ++ [0x0D#8, 0x0A#8] ++ (hufEncodeBody s.input).1 →
    out.length ≤ s.params.dstCap →
    ∃ t, exec (.compress 1) s = .next t ∧
      t = { s with
        dst := t.dst, dstLen := t.dstLen, pad := t.pad, freq := t.freq, freqValid := true,
        tree := buildTree s.input, nleaf := t.nleaf, codeLen := t.codeLen, codeBits := t.codeBits,
        codesValid := !s.input.isEmpty, efficiency := t.efficiency, errcode := 0, done := true, seq := .idle,
        draws := s.draws + 1 } ∧
      t.outputIs out ∧ t.pad.toNat = (hufEncodeBody s.input).2 ∧
      (∀ b : Byte, (t.freq[b.toNat]'b.isLt).toNat = s.input.count b) ∧ t.nleaf.toNat = s.input.dedup.length ∧
      (∀ t0, buildTree s.input = some t0 →
        t.codeLen = codeLenTable (deriveCodes t0) ∧ t.codeBits = codeBitsTable (deriveCodes t0)) ∧
      t.efficiency.toInt = (s.srcLen.toNat : Int) - (out.length : Int)

/-- R234, R231, R41: EXTRACT of an RLE artifact that decodes delivers its data, NRUNS, and its extension in EXT; the
bytes of EXT beyond the extension keep their values. Model's choices: the draw counter advances by one (log 2). -/
def Obligations.ExtractRleWritesDataAndExtension : Prop :=
  ∀ (m : BitVec 2) (s : State) (ext body : Bytes) (runs : List Run) (n : Nat), s.params.legal = true →
    s.srcLen.toNat ≤ s.params.srcCap →
    s.input = [0x52#8, 0x4C#8, 0x45#8, 0x2C#8] ++ ext ++ [0x0D#8, 0x0A#8] ++ body → split1 ext = none →
    rleDecodeBody body = .ok (runs, n) → ext.length ≤ s.params.extCap →
    (expandRuns runs).length ≤ s.params.dstCap →
    ∃ t, exec (.extract m) s = .next t ∧
      t = { s with
        dst := t.dst, dstLen := t.dstLen, nruns := t.nruns, ext := t.ext, extLen := t.extLen, errcode := 0,
        done := true, seq := .idle, draws := s.draws + 1 } ∧
      t.outputIs (expandRuns runs) ∧ t.nruns.toNat = n ∧ t.extLen.toNat = ext.length ∧
      ∀ i, t.ext.byte? i = if i < ext.length then ext[i]? else s.ext.byte? i

/-- R234, R231, R41: EXTRACT of a Huffman artifact that decodes delivers its data, tree, leaf and pad count, and its
extension in EXT; FREQ is not written. Model's choices: the draw counter advances by one (log 2). -/
def Obligations.ExtractHufWritesDataAndExtension : Prop :=
  ∀ (m : BitVec 2) (s : State) (ext body out : Bytes) (tree : Option CodeTree) (pad : Nat), s.params.legal = true →
    s.srcLen.toNat ≤ s.params.srcCap →
    s.input = [0x48#8, 0x55#8, 0x46#8, 0x2C#8] ++ ext ++ [0x0D#8, 0x0A#8] ++ body → split1 ext = none →
    hufDecodeBody body = .ok (out, tree, pad) → ext.length ≤ s.params.extCap → out.length ≤ s.params.dstCap →
    ∃ t, exec (.extract m) s = .next t ∧
      t = { s with
        dst := t.dst, dstLen := t.dstLen, pad := t.pad, tree := tree, nleaf := t.nleaf, codeLen := t.codeLen,
        codeBits := t.codeBits, codesValid := false, ext := t.ext, extLen := t.extLen, errcode := 0, done := true,
        seq := .idle, draws := s.draws + 1 } ∧
      t.outputIs out ∧ t.pad.toNat = pad ∧ t.nleaf.toNat = leafCount tree ∧ t.extLen.toNat = ext.length ∧
      ∀ i, t.ext.byte? i = if i < ext.length then ext[i]? else s.ext.byte? i

/-- R233, R254, R95, R252, R41: the errors of COMPRESS, in their order. An unknown METHOD clears only DST_LEN and
EFFICIENCY; with METHOD = 0 a unit size of 0 comes before the extension; an extension that is too long or holds a CR
or LF is CFG_EXT for both methods; an artifact longer than DST_CAP is CAP_DST. Model's choices: the draw counter
advances by one (log 2); `[]` stands for contents that may be any, for METHOD 2 and 3 too (log 4, 6). -/
def Obligations.CompressConfigErrors : Prop :=
  (∀ (m : BitVec 2) (s : State), s.srcLen.toNat ≤ s.params.srcCap → m = 2 ∨ m = 3 →
    exec (.compress m) s = .next { s with
      dst := [], dstLen := 0, efficiency := 0, errcode := 0x102, err := true, done := true, seq := .idle,
      draws := s.draws + 1 }) ∧
  (∀ s : State, s.srcLen.toNat ≤ s.params.srcCap → s.unitSize = 0 →
    exec (.compress 0) s = .next { s with
      dst := [], dstLen := 0, nruns := 0, efficiency := 0, errcode := 0x101, err := true, done := true,
      seq := .idle, draws := s.draws + 1 }) ∧
  (∀ s : State, s.srcLen.toNat ≤ s.params.srcCap →
    (s.params.extCap < s.extLen.toNat ∨ 0x0D#8 ∈ s.bufBytes .ext 0 s.extLen.toNat ∨
      0x0A#8 ∈ s.bufBytes .ext 0 s.extLen.toNat) →
    (s.unitSize ≠ 0 → exec (.compress 0) s = .next { s with
      dst := [], dstLen := 0, nruns := 0, efficiency := 0, errcode := 0x103, err := true, done := true,
      seq := .idle, draws := s.draws + 1 }) ∧
    ∃ t, exec (.compress 1) s = .next t ∧
      t = { s with
        dst := [], dstLen := 0, pad := 0, nleaf := 0, tree := none, freq := t.freq, freqValid := false,
        codeLen := t.codeLen, codeBits := t.codeBits, codesValid := false, efficiency := 0, errcode := 0x103,
        err := true, done := true, seq := .idle, draws := s.draws + 1 }) ∧
  ∀ (s : State) (ext : Bytes), s.srcLen.toNat ≤ s.params.srcCap → s.extLen.toNat ≤ s.params.extCap →
    ext = s.bufBytes .ext 0 s.extLen.toNat → (∀ b ∈ ext, b ≠ 0x0D#8 ∧ b ≠ 0x0A#8) →
    (s.unitSize ≠ 0 → s.params.dstCap < (compressRle s.input s.unitSize.toNat ext).length →
      s.failsWith (.compress 0) 0x321) ∧
    (s.params.dstCap < (compressHuf s.input ext).length → s.failsWith (.compress 1) 0x321)

/-- R231, R234, R95, R254, R41: the errors of EXTRACT, in their order, EXT and EXT_LEN unchanged. A tag that is
neither RLE nor HUF is FMT_TAG. For both tags: no CRLF is FMT_HEADER_LINES; no comma after the tag is FMT_TAG; a body
that does not decode is its decoder's error; an extension longer than EXT_CAP is CAP_EXT, however long the output is;
an output longer than DST_CAP is CAP_DST. The failure column is that of RLE_DECODE or of HUF_DECODE, by the tag.
Model's choices: the draw counter advances by one (log 2); `[]` stands for contents that may be any (log 4, 6). -/
def Obligations.ExtractLineErrors : Prop :=
  ∀ (m : BitVec 2) (s : State), s.srcLen.toNat ≤ s.params.srcCap →
    (s.input.take 3 ≠ [0x52#8, 0x4C#8, 0x45#8] → s.input.take 3 ≠ [0x48#8, 0x55#8, 0x46#8] →
      exec (.extract m) s = .next { s with
        dst := [], dstLen := 0, errcode := 0x21A, err := true, done := true, seq := .idle, draws := s.draws + 1 }) ∧
    ∀ (tag : Bytes) (col : FailureColumn),
      tag = [0x52#8, 0x4C#8, 0x45#8] ∧ col = rleColumn ∨ tag = [0x48#8, 0x55#8, 0x46#8] ∧ col = hufDecodeColumn →
      s.input.take 3 = tag →
      (split1 s.input = none → ∃ t, exec (.extract m) s = .next t ∧ s.failedWith col 0x219 t) ∧
      ∀ line1 body, split1 s.input = some (line1, body) →
        (line1[3]? ≠ some 0x2C#8 → ∃ t, exec (.extract m) s = .next t ∧ s.failedWith col 0x21A t) ∧
        (line1[3]? = some 0x2C#8 →
          (∀ c, extractBody tag body = .error c → ∃ t, exec (.extract m) s = .next t ∧ s.failedWith col c.word t) ∧
          ∀ x, extractBody tag body = .ok x →
            (s.params.extCap < line1.length - 4 → ∃ t, exec (.extract m) s = .next t ∧ s.failedWith col 0x323 t) ∧
            (line1.length - 4 ≤ s.params.extCap → s.params.dstCap < (extractedBytes x).length →
              ∃ t, exec (.extract m) s = .next t ∧ s.failedWith col 0x321 t))

/-- R230, R231, R233, R234 (DOC §8): what COMPRESS delivers, EXTRACT turns back into the data and the extension, for
both methods. -/
def Obligations.ExtractInvertsCompress : Prop :=
  ∀ (m m' : BitVec 2) (s t u : State), s.params.legal = true → m = 0 ∨ m = 1 → exec (.compress m) s = .next t →
    t.errcode = 0 → t.outputIs u.input → u.srcLen.toNat ≤ u.params.srcCap → u.params.legal = true →
    s.input.length ≤ u.params.dstCap → s.extLen.toNat ≤ u.params.extCap →
    ∃ v, exec (.extract m') u = .next v ∧ v.errcode = 0 ∧ v.outputIs s.input ∧ v.extLen = s.extLen ∧
      ∀ i, i < s.extLen.toNat → v.ext.byte? i = some (s.bufByte .ext i)

/-! ### Every command -/

/-- R97, R255: every command, in every state, completes with SEQ = IDLE and DONE set, and ERRCODE is 0 and ERR as it
was, or the word of a cause and ERR set. From a state with SEQ = BUSY that meets the handshake invariant, ERR is then
set exactly where ERRCODE is not 0. Model's choice: exec is defined in every state, and a success keeps ERR (log 19).
-/
def Obligations.EveryCommandCompletes : Prop :=
  ∀ (i : Instr) (s : State), ∃ t, exec i s = .next t ∧ t.seq = .idle ∧ t.done = true ∧
    ((t.errcode = 0 ∧ t.err = s.err) ∨ ∃ c : Cause, t.errcode = c.word ∧ t.err = true) ∧
    (s.seq = .busy → s.handshakeOk = true → (t.err = true ↔ t.errcode ≠ 0))

/-- R95, R254, R41: SRC_LEN above SRC_CAP is CAP_SRC for every command that reads SRC, before any other error of it,
with exactly the failure column of the command. Model's choices: the draw counter advances by one (log 2); `[]` in the
column stands for contents that may be any (log 4, 6); EXTRACT reads its tag in SRC here too (log 13). -/
def Obligations.SrcLenBeyondCapacityIsCapSrc : Prop :=
  ∀ (i : Instr) (s : State), readsSrc i = true → s.params.srcCap < s.srcLen.toNat → s.failsWith i 0x320

/-- R28, R250, R290, R41: a command that fails ends with the word of a cause and exactly its failure column: DST_LEN
is 0, no output is visible, and everything the column does not name keeps its value, EXT and EXT_LEN among it. Model's
choices: the draw counter advances by one (log 2); `[]` in the column stands for contents that may be any (log 4, 6);
EXTRACT reads its tag in SRC on CAP_SRC too (log 13). -/
def Obligations.FailureShowsNoOutput : Prop :=
  ∀ (i : Instr) (s t : State), exec i s = .next t → t.errcode ≠ 0 →
    (∃ c : Cause, t.errcode = c.word) ∧ s.failedWith (s.failureColumn i) t.errcode t ∧
      t.dstLen = 0 ∧ t.ext = s.ext ∧ t.extLen = s.extLen ∧ t.err = true

/-- R27, R38, R41: no command writes SRC, SRC_LEN, UNIT_SIZE, CMD or CTRL.IE, and no command but EXTRACT writes EXT or
EXT_LEN; nor does a command touch the parameters, the reset input or the events to come. -/
def Obligations.CommandsKeepTheirOperands : Prop :=
  ∀ (i : Instr) (s t : State), exec i s = .next t →
    t.src = s.src ∧ t.srcLen = s.srcLen ∧ t.unitSize = s.unitSize ∧ t.cmd = s.cmd ∧ t.ie = s.ie ∧
      t.params = s.params ∧ t.resetIn = s.resetIn ∧ t.events = s.events ∧ t.lastResp = s.lastResp ∧
      ((∀ m, i ≠ .extract m) → t.ext = s.ext ∧ t.extLen = s.extLen)

/-- R40, R94: HUF_ENCODE, HUF_DECODE, COMPRESS and EXTRACT read no retained table: from states that agree on
everything but the tables, their flags and NLEAF they end with the same output, error code, results and extension;
wherever the command writes them also with the same tree, leaf count and CODES_VALID (the two Huffman commands,
COMPRESS with METHOD = 1, EXTRACT of an input that starts with HUF) and with the same FREQ_VALID, FREQ and CODE
(HUF_ENCODE, COMPRESS with METHOD = 1), a table counting only where its flag is set. -/
def Obligations.CompositesReadNoTables : Prop :=
  ∀ (i : Instr) (m : BitVec 2) (s u s' u' : State),
    i = .hufEncode m ∨ i = .hufDecode m ∨ i = .compress m ∨ i = .extract m →
    u = { s with
      freq := u.freq, freqValid := u.freqValid, tree := u.tree, nleaf := u.nleaf, codeLen := u.codeLen,
      codeBits := u.codeBits, codesValid := u.codesValid } →
    exec i s = .next s' → exec i u = .next u' →
    s'.dst = u'.dst ∧ s'.dstLen = u'.dstLen ∧ s'.errcode = u'.errcode ∧ s'.pad = u'.pad ∧ s'.nruns = u'.nruns ∧
      s'.efficiency = u'.efficiency ∧ s'.ext = u'.ext ∧ s'.extLen = u'.extLen ∧
      (i = .hufEncode m ∨ i = .hufDecode m ∨ i = .compress 1 ∨
          (i = .extract m ∧ s.srcLen.toNat ≤ s.params.srcCap ∧ s.input.take 3 = [0x48#8, 0x55#8, 0x46#8]) →
        s'.tree = u'.tree ∧ s'.nleaf = u'.nleaf ∧ s'.codesValid = u'.codesValid) ∧
      (i = .hufEncode m ∨ i = .compress 1 →
        s'.freqValid = u'.freqValid ∧ (s'.freqValid = true → s'.freq = u'.freq) ∧
          (s'.codesValid = true → s'.codeLen = u'.codeLen ∧ s'.codeBits = u'.codeBits))

/-! ### The bus -/

/-- R62, R64: the accesses the map admits are exactly those of its rows: aligned words of the registers and table
windows, and naturally aligned accesses inside the capacities of the buffers. -/
def Obligations.MapAdmitsExactlyItsRows : Prop :=
  ∀ (s : State) (addr : Addr) (size : Size) (a n : Nat), s.params.legal = true → a = addr.toNat → n = size.bytes →
    ((s.locate addr size).isSome = true ↔
      (n = 4 ∧ a % 4 = 0 ∧ (a ≤ 0x30 ∨ (0x400 ≤ a ∧ a < 0xC00) ∨ (0x2000 ≤ a ∧ a < 0x4000))) ∨
      (a % n = 0 ∧
        ((0x4000 ≤ a ∧ a + n ≤ 0x4000 + s.params.extCap) ∨
          (0x1000000 ≤ a ∧ a + n ≤ 0x1000000 + s.params.srcCap) ∨
          (0x2000000 ≤ a ∧ a + n ≤ 0x2000000 + s.params.dstCap))))

/-- R61, R66, R257: while SEQ = IDLE an access the map refuses is answered ERROR and changes nothing of the block.
Model's choices: the draw counter advances by one (log 2); the list of events and the recorded answer (log 7, 8). -/
def Obligations.RefusedAccessChangesNothing : Prop :=
  ∀ (s : State) (addr : Addr) (size : Size) (v : Word) (rest : List Event), s.resetIn = false → s.seq = .idle →
    s.locate addr size = none →
    (s.events = .write addr size v :: rest →
      step s = .next { s with events := rest, lastResp := some (.write .error) }) ∧
    (s.events = .read addr size :: rest →
      ∃ d, step s = .next { s with events := rest, lastResp := some (.read d .error), draws := s.draws + 1 })

/-- R63, R66: a write to SRC or EXT while SEQ = IDLE stores byte k of the data at offset off + k, least significant
first; every other byte of the buffer and everything else keeps its value. Model's choices: the list of events and the
recorded answer (log 7, 8). -/
def Obligations.BufferWritesAreLittleEndian : Prop :=
  ∀ (s : State) (w : Buffer) (off : Nat) (addr : Addr) (size : Size) (v : Word) (rest : List Event),
    s.resetIn = false → s.seq = .idle → s.params.legal = true → w ≠ .dst →
    addr.toNat = bufferBase w + off → off % size.bytes = 0 → off + size.bytes ≤ s.capOf w →
    s.events = .write addr size v :: rest →
    ∃ t, step s = .next t ∧
      t = { s with src := t.src, ext := t.ext, events := rest, lastResp := some (.write .okay) } ∧
      (∀ k, k < size.bytes → (t.memOf w).byte? (off + k) = some (v.extractLsb' (8 * k) 8)) ∧
      (∀ i, i < off ∨ off + size.bytes ≤ i → (t.memOf w).byte? i = (s.memOf w).byte? i) ∧
      ∀ w', w' ≠ w → t.memOf w' = s.memOf w'

/-- R63, R66, R67: a read of bytes with specified contents while SEQ = IDLE answers OKAY with byte k in data bits 8k+7
.. 8k, and the block keeps its state. Model's choices: the data bits above the size of the access are 0 (log 16); the
draw counter advances by one (log 2); the list of events and the recorded answer (log 7, 8). -/
def Obligations.BufferReadsAreLittleEndian : Prop :=
  ∀ (s : State) (w : Buffer) (off : Nat) (addr : Addr) (size : Size) (bytes : Bytes) (rest : List Event),
    s.resetIn = false → s.seq = .idle → s.params.legal = true →
    addr.toNat = bufferBase w + off → off % size.bytes = 0 → off + size.bytes ≤ s.capOf w →
    bytes.length = size.bytes → (∀ k, k < size.bytes → (s.memOf w).byte? (off + k) = bytes[k]?) →
    s.events = .read addr size :: rest →
    ∃ d, step s = .next { s with events := rest, lastResp := some (.read d .okay), draws := s.draws + 1 } ∧
      (∀ k, k < size.bytes → bytes[k]? = some (d.extractLsb' (8 * k) 8)) ∧ d.toNat < 256 ^ size.bytes

/-- R65: writes to RO locations are answered OKAY and change nothing. Model's choices: the list of events and the
recorded answer (log 7, 8). -/
def Obligations.ReadOnlyLocationsIgnoreWrites : Prop :=
  ∀ (s : State) (addr : Addr) (size : Size) (v : Word) (rest : List Event) (a : Nat), s.resetIn = false →
    s.seq = .idle → s.params.legal = true → a = addr.toNat →
    (size = .four ∧ a % 4 = 0 ∧
        (a = 0x00 ∨ a = 0x10 ∨ a = 0x18 ∨ (0x24 ≤ a ∧ a ≤ 0x30) ∨ (0x400 ≤ a ∧ a < 0xC00) ∨
          (0x2000 ≤ a ∧ a < 0x4000)) ∨
      a % size.bytes = 0 ∧ 0x2000000 ≤ a ∧ a + size.bytes ≤ 0x2000000 + s.params.dstCap) →
    s.events = .write addr size v :: rest →
    step s = .next { s with events := rest, lastResp := some (.write .okay) }

/-- R24, R25, R26, R27, R29, R30, R66, R257: the writes of the other registers while SEQ = IDLE, each changing nothing
else. A write to STATUS clears DONE and ERR, each where it has a 1, and leaves ERRCODE; CMD holds bits 9:0 of what is
written, and SRC_LEN, UNIT_SIZE and EXT_LEN hold it whole. Model's choices: the list of events and the recorded answer
(log 7, 8). -/
def Obligations.RegisterWritesTakeEffect : Prop :=
  ∀ (s : State) (v : Word) (rest : List Event), s.resetIn = false → s.seq = .idle →
    (s.events = .write 0x08#26 .four v :: rest →
      step s = .next { s with
        done := if v.getLsbD 1 then false else s.done, err := if v.getLsbD 2 then false else s.err, events := rest,
        lastResp := some (.write .okay) }) ∧
    (s.events = .write 0x0C#26 .four v :: rest →
      ∃ c : Word, step s = .next { s with cmd := c, events := rest, lastResp := some (.write .okay) } ∧
        c.extractLsb' 0 10 = v.extractLsb' 0 10 ∧ c.extractLsb' 10 22 = 0) ∧
    (s.events = .write 0x14#26 .four v :: rest →
      step s = .next { s with srcLen := v, events := rest, lastResp := some (.write .okay) }) ∧
    (s.events = .write 0x1C#26 .four v :: rest →
      step s = .next { s with unitSize := v, events := rest, lastResp := some (.write .okay) }) ∧
    (s.events = .write 0x20#26 .four v :: rest →
      step s = .next { s with extLen := v, events := rest, lastResp := some (.write .okay) })

/-- R22, R23, R24, R36, R39, R62, R66: what STATUS and CTRL read, bit by bit; irq, which is CTRL.IE and STATUS.DONE as
read; and that a 4-byte read at the offset of a register while SEQ = IDLE answers OKAY with that register and changes
nothing of the block. Model's choices: the draw counter advances by one (log 2); the list of events and the recorded
answer (log 7, 8). -/
def Obligations.StatusCtrlAndIrqReadTheirBits : Prop :=
  ∀ s : State,
    (∀ i, i < 32 →
      s.statusWord.getLsbD i =
        (i == 0 && s.seq == .busy || i == 1 && s.done || i == 2 && s.err || i == 3 && s.freqValid ||
          i == 4 && s.tree.isSome || i == 5 && s.codesValid) ∧
      s.ctrlWord.getLsbD i = (i == 1 && s.ie)) ∧
    s.irq = (s.ctrlWord.getLsbD 1 && s.statusWord.getLsbD 1) ∧
    ∀ (a : Addr) (v : Word) (rest : List Event), s.resetIn = false → s.seq = .idle →
      (a, v) ∈ [(0x00#26, 0x48430007#32), (0x04#26, s.ctrlWord), (0x08#26, s.statusWord), (0x0C#26, s.cmd),
        (0x10#26, s.errcode), (0x14#26, s.srcLen), (0x18#26, s.dstLen), (0x1C#26, s.unitSize), (0x20#26, s.extLen),
        (0x24#26, s.pad), (0x28#26, s.nruns), (0x2C#26, s.efficiency), (0x30#26, s.nleaf)] →
      s.events = .read a .four :: rest →
      step s = .next { s with events := rest, lastResp := some (.read v .okay), draws := s.draws + 1 }

/-- R23, R70, R96: the writes to CTRL with SRST = 0. START while SEQ = IDLE updates IE, clears DONE, ERR and ERRCODE
and makes SEQ BUSY as one event, changing nothing else; START while SEQ = BUSY is ignored and IE is updated; a write
with START = 0 updates IE alone, in IDLE and in BUSY. Model's choices: the list of events and the recorded answer (log
7, 8). -/
def Obligations.StartIssuesTheCommand : Prop :=
  ∀ (s : State) (v : Word) (rest : List Event), s.resetIn = false → v.getLsbD 2 = false →
    s.events = .write 0x04#26 .four v :: rest →
    (v.getLsbD 0 = true → s.seq = .idle → step s = .next { s with
      ie := v.getLsbD 1, done := false, err := false, errcode := 0, seq := .busy, events := rest,
      lastResp := some (.write .okay) }) ∧
    (v.getLsbD 0 = true → s.seq = .busy → step s = .next { s with
      ie := v.getLsbD 1, events := rest, lastResp := some (.write .okay) }) ∧
    (v.getLsbD 0 = false → step s = .next { s with
      ie := v.getLsbD 1, events := rest, lastResp := some (.write .okay) })

/-- R70: while SEQ = BUSY, admitted writes other than to CTRL are answered OKAY and ignored; ID, CTRL and STATUS are
read exactly; every other admitted read is answered OKAY and leaves the block as it is. Model's choices: the draw
counter advances by one (log 2); the list of events and the recorded answer (log 7, 8). -/
def Obligations.BusyIgnoresOtherAccesses : Prop :=
  ∀ (s : State) (addr : Addr) (size : Size) (v : Word) (rest : List Event) (loc : Loc), s.resetIn = false →
    s.seq = .busy → s.locate addr size = some loc →
    (loc ≠ .reg .ctrl → s.events = .write addr size v :: rest →
      step s = .next { s with events := rest, lastResp := some (.write .okay) }) ∧
    (s.events = .read addr size :: rest →
      ∃ d, step s = .next { s with events := rest, lastResp := some (.read d .okay), draws := s.draws + 1 } ∧
        (loc = .reg .id → d = 0x48430007#32) ∧ (loc = .reg .ctrl → d = s.ctrlWord) ∧
        (loc = .reg .status → d = s.statusWord))

/-- R281, R42: SRST, in IDLE and in BUSY, whatever the other bits of the write are, gives every register its reset
value, drops the tree and leaves no byte of the buffers specified; the command in flight never completes. Model's
choices: the draw counter advances by one (log 2); `[]` stands for contents that may be any (log 4); the list of
events and the recorded answer (log 7, 8). -/
def Obligations.SoftResetSetsResetValues : Prop :=
  ∀ (s : State) (v : Word) (rest : List Event), s.resetIn = false → v.getLsbD 2 = true →
    s.events = .write 0x04#26 .four v :: rest →
    ∃ t, step s = .next t ∧
      t = { s with
        seq := .idle, ie := false, done := false, err := false, freqValid := false, codesValid := false, cmd := 0,
        errcode := 0, srcLen := 0, dstLen := 0, unitSize := 1, extLen := 0, pad := 0, nruns := 0, efficiency := 0,
        nleaf := 0, freq := t.freq, tree := none, codeLen := t.codeLen, codeBits := t.codeBits, src := [],
        dst := [], ext := [], events := rest, lastResp := some (.write .okay), draws := s.draws + 1 }

/-- R280, R42: asserting the reset input gives every register its reset value, drops the tree, leaves no byte of the
buffers specified, and abandons a command in flight with no completion. While it is asserted the block stays IDLE, not
DONE and its irq 0 through any turn of the block, and a bus access, a read or a write, stops the model (log 10); its
release changes nothing else. Model's choices: the level of the input as state (log 10); the draw counter advances by
one (log 2); `[]` stands for contents that may be any (log 4); the list of events (log 7). -/
def Obligations.HardwareResetAbandonsCommand : Prop :=
  ∀ (s : State) (rest : List Event), s.events = .resetInput true :: rest →
    ∃ t, step s = .next t ∧
      t = { s with
        seq := .idle, ie := false, done := false, err := false, freqValid := false, codesValid := false, cmd := 0,
        errcode := 0, srcLen := 0, dstLen := 0, unitSize := 1, extLen := 0, pad := 0, nruns := 0, efficiency := 0,
        nleaf := 0, freq := t.freq, tree := none, codeLen := t.codeLen, codeBits := t.codeBits, src := [],
        dst := [], ext := [], resetIn := true, events := rest, draws := s.draws + 1 } ∧
      t.irq = false ∧ (rest = [] → step t = .next t) ∧
      ∀ more,
        (rest = .block :: more → step t = .next { t with events := more }) ∧
        (∀ addr size, rest = .read addr size :: more → step t = .fault .busInReset) ∧
        (∀ addr size v, rest = .write addr size v :: more → step t = .fault .busInReset) ∧
        (rest = .resetInput false :: more → step t = .next { t with resetIn := false, events := more })

/-- R35, R37, R62: while SEQ = IDLE the table windows read the entries of their tables where the valid flag is set: the
FREQ word, CODE_LEN in bits 7:0, and in word k of CODE_BITS the code bits 32k .. 32k+31. Bits 31:8 of the CODE_LEN
window are 0 whether or not the flag is set (log 17). -/
def Obligations.TableWindowsReadEntries : Prop :=
  ∀ (s : State) (b : Byte) (k : BitVec 3), s.seq = .idle →
    (s.freqValid = true →
      s.readAnswer (BitVec.ofNat 26 (0x400 + 4 * b.toNat)) .four = .read (s.freq[b.toNat]'b.isLt) .okay) ∧
    (s.codesValid = true →
      s.readAnswer (BitVec.ofNat 26 (0x800 + 4 * b.toNat)) .four =
        .read ((s.codeLen[b.toNat]'b.isLt).setWidth 32) .okay) ∧
    (∃ d : Word, s.readAnswer (BitVec.ofNat 26 (0x800 + 4 * b.toNat)) .four = .read d .okay ∧ d.toNat < 2 ^ 8) ∧
    (s.codesValid = true →
      ∃ d : Word, s.readAnswer (BitVec.ofNat 26 (0x2000 + 32 * b.toNat + 4 * k.toNat)) .four = .read d .okay ∧
        ∀ j, j < 32 → d.getLsbD j = (s.codeBits[b.toNat]'b.isLt).getLsbD (32 * k.toNat + j))

/-! ### Invariants that every step keeps -/

/-- R38, R5: every step keeps SRC, DST and EXT inside their capacities, and keeps the parameters. Model's choices: the
canonical form of a memory, which it keeps too (log 4), and the parameters as a field of State (log 1). -/
def Obligations.StepKeepsMemoriesCanonical : Prop :=
  ∀ s t : State, s.params.legal = true → s.memoryOk = true → step s = .next t →
    t.memoryOk = true ∧ t.params = s.params

/-- R25, R26, R31, R34, R70, R96, R24, R280: every step keeps the reserved bits of CMD, ERRCODE, PAD and NLEAF at 0,
and the handshake of SEQ, DONE, ERR, ERRCODE and the reset input. -/
def Obligations.StepKeepsRegistersLegal : Prop :=
  ∀ s t : State, s.reservedOk = true → s.handshakeOk = true → step s = .next t →
    t.reservedOk = true ∧ t.handshakeOk = true

/-- R34, R36, R37: every step keeps TREE within NODE_CAP and rooted at a Node, NLEAF equal to its leaf count, and a
valid CODE table equal to the codes of TREE. -/
def Obligations.StepKeepsTablesConsistent : Prop :=
  ∀ s t : State, s.tablesOk → step s = .next t → t.tablesOk

/-- R28: every step keeps DST[0..DST_LEN) inside DST_CAP and specified. -/
def Obligations.StepKeepsOutputSpecified : Prop :=
  ∀ s t : State, s.outputOk → step s = .next t → t.outputOk

/-- R42, R22: what the registers read right after reset, and that the invariants hold there. Model's choice: the
capacities that `State.reset` takes, of which the last clause says that they are legal (log 1). -/
def Obligations.ResetLeavesItsValues : Prop :=
  State.reset.readReg .id = 0x48430007#32 ∧ State.reset.readReg .ctrl = 0 ∧ State.reset.readReg .status = 0 ∧
    State.reset.readReg .cmd = 0 ∧ State.reset.readReg .errcode = 0 ∧ State.reset.readReg .srcLen = 0 ∧
    State.reset.readReg .dstLen = 0 ∧ State.reset.readReg .unitSize = 1 ∧ State.reset.readReg .extLen = 0 ∧
    State.reset.readReg .pad = 0 ∧ State.reset.readReg .nruns = 0 ∧ State.reset.readReg .efficiency = 0 ∧
    State.reset.readReg .nleaf = 0 ∧ State.reset.tree = none ∧ State.reset.irq = false ∧
    State.reset.memoryOk = true ∧ State.reset.reservedOk = true ∧ State.reset.handshakeOk = true ∧
    State.reset.tablesOk ∧ State.reset.outputOk ∧ State.reset.params.legal = true

/-- R280; 93_implementation_defined.md item 16: a step stops in one case alone, a bus access while the reset input is
asserted (log 10). Model's choices: the list of events and the recorded answer (log 7, 8). -/
def Obligations.OnlyBusAccessInResetStops : Prop :=
  ∀ s : State, (∃ t, step s = .next t) ∨
    (step s = .fault .busInReset ∧ s.resetIn = true ∧
      ∃ rest, (∃ addr size, s.events = .read addr size :: rest) ∨
        ∃ addr size v, s.events = .write addr size v :: rest)
end

