-- ==== Sys2Proof/Laws/Memory.lean ====
section
/-! SUPPORT. The laws of byte memories: a read after a write, a write leaves every other byte alone, and every memory
operation keeps the canonical form. -/

namespace Sys2Proof.Machine

@[simp] theorem Memory.byte?_nil (x : Nat) : Memory.byte? [] x = none := rfl

@[simp] theorem Memory.byte?_cons (k : Nat) (b : Byte) (m : Memory) (x : Nat) :
    Memory.byte? ((k, b) :: m) x = if k = x then some b else Memory.byte? m x := rfl

theorem Memory.byte?_set (m : Memory) (a : Nat) (v : Byte) (x : Nat) :
    (m.set a v).byte? x = if x = a then some v else m.byte? x := by
  induction m with
  | nil => simp [Memory.set, eq_comm]
  | cons cell rest ih =>
    obtain ⟨k, b⟩ := cell
    simp only [Memory.set]
    split
    · by_cases h : a = x <;> simp [h, eq_comm]
    · split
      · subst_vars
        by_cases h : x = k <;> simp [h, eq_comm]
      · by_cases h : k = x
        · subst h
          rename_i h1 h2
          simp [eq_comm, h2]
        · simp [h, ih]

/-- A read after a write of the same byte. -/
theorem Memory.byte?_set_self (m : Memory) (a : Nat) (v : Byte) : (m.set a v).byte? a = some v := by
  simp [Memory.byte?_set]

/-- A write leaves every other byte alone. -/
theorem Memory.byte?_set_other (m : Memory) {a x : Nat} (v : Byte) (h : x ≠ a) : (m.set a v).byte? x = m.byte? x := by
  simp [Memory.byte?_set, h]

/-- Everything a sequence of writes does. -/
theorem Memory.byte?_write (m : Memory) (a : Nat) (bs : Bytes) (x : Nat) :
    (m.write a bs).byte? x = if a ≤ x ∧ x < a + bs.length then bs[x - a]? else m.byte? x := by
  induction bs generalizing m a with
  | nil => simp [Memory.write]
  | cons b bs ih =>
    simp only [Memory.write, ih, Memory.byte?_set, List.length_cons]
    by_cases h : x = a
    · subst h; simp
    · by_cases h1 : a + 1 ≤ x ∧ x < a + 1 + bs.length
      · have h2 : a ≤ x ∧ x < a + (bs.length + 1) := by omega
        have h3 : x - a = (x - (a + 1)) + 1 := by omega
        simp [h1, h2, h3]
      · have h2 : ¬(a ≤ x ∧ x < a + (bs.length + 1)) := by omega
        rw [if_neg h1, if_neg h2, if_neg h]

/-- Everything `ofBytesAt` specifies. -/
theorem Memory.byte?_ofBytesAt (a : Nat) (bs : Bytes) (x : Nat) :
    (Memory.ofBytesAt a bs).byte? x = if a ≤ x then bs[x - a]? else none := by
  induction bs generalizing a with
  | nil => simp [Memory.ofBytesAt]
  | cons b bs ih =>
    simp only [Memory.ofBytesAt, Memory.byte?_cons, ih]
    by_cases h : a = x
    · subst h; simp
    · by_cases h1 : a + 1 ≤ x
      · have h3 : x - a = (x - (a + 1)) + 1 := by omega
        simp [h, h1, h3, Nat.le_of_succ_le h1]
      · have h2 : ¬a ≤ x := by omega
        simp [h, h1, h2]

/-- DST as a successful command leaves it: byte `x` is byte `x` of the output. -/
@[simp] theorem Memory.byte?_ofBytes (bs : Bytes) (x : Nat) : (Memory.ofBytesAt 0 bs).byte? x = bs[x]? := by
  simp [Memory.byte?_ofBytesAt]

/-! ### The canonical form -/

theorem Memory.wfFrom_mono {lo lo' cap : Nat} {m : Memory} (h : lo' ≤ lo) (hm : Memory.wfFrom lo cap m = true) :
    Memory.wfFrom lo' cap m = true := by
  cases m with
  | nil => rfl
  | cons cell rest =>
    obtain ⟨k, b⟩ := cell
    simp only [Memory.wfFrom, Bool.and_eq_true, decide_eq_true_eq] at hm ⊢
    exact ⟨⟨h.trans hm.1.1, hm.1.2⟩, hm.2⟩

theorem Memory.wfFrom_set {lo cap : Nat} {m : Memory} {a : Nat} (v : Byte) (hm : Memory.wfFrom lo cap m = true)
    (hlo : lo ≤ a) (ha : a < cap) : Memory.wfFrom lo cap (m.set a v) = true := by
  induction m generalizing lo with
  | nil => simp [Memory.set, Memory.wfFrom, hlo, ha]
  | cons cell rest ih =>
    obtain ⟨k, b⟩ := cell
    simp only [Memory.wfFrom, Bool.and_eq_true, decide_eq_true_eq] at hm
    obtain ⟨⟨h1, h2⟩, h3⟩ := hm
    simp only [Memory.set]
    split
    · simp only [Memory.wfFrom, Bool.and_eq_true, decide_eq_true_eq]
      exact ⟨⟨hlo, ha⟩, ⟨by omega, h2⟩, h3⟩
    · split
      · subst_vars
        simp only [Memory.wfFrom, Bool.and_eq_true, decide_eq_true_eq]
        exact ⟨⟨h1, h2⟩, h3⟩
      · simp only [Memory.wfFrom, Bool.and_eq_true, decide_eq_true_eq]
        exact ⟨⟨h1, h2⟩, ih h3 (by omega)⟩

/-- A write of one byte inside the buffer keeps the canonical form. -/
theorem Memory.wf_set {cap : Nat} {m : Memory} {a : Nat} (v : Byte) (hm : m.wf cap = true) (ha : a < cap) :
    (m.set a v).wf cap = true :=
  Memory.wfFrom_set v hm (Nat.zero_le a) ha

/-- A write of a byte sequence inside the buffer keeps the canonical form. -/
theorem Memory.wf_write {cap : Nat} {m : Memory} {a : Nat} {bs : Bytes} (hm : m.wf cap = true)
    (ha : a + bs.length ≤ cap) : (m.write a bs).wf cap = true := by
  induction bs generalizing m a with
  | nil => exact hm
  | cons b bs ih =>
    simp only [List.length_cons] at ha
    exact ih (Memory.wf_set b hm (by omega)) (by omega)

theorem Memory.wfFrom_ofBytesAt {cap a : Nat} {bs : Bytes} (h : a + bs.length ≤ cap) :
    Memory.wfFrom a cap (Memory.ofBytesAt a bs) = true := by
  induction bs generalizing a with
  | nil => rfl
  | cons b bs ih =>
    simp only [List.length_cons] at h
    simp only [Memory.ofBytesAt, Memory.wfFrom, Bool.and_eq_true, decide_eq_true_eq]
    exact ⟨⟨le_refl a, by omega⟩, ih (by omega)⟩

/-- An output that fits its buffer is in canonical form. -/
theorem Memory.wf_ofBytes {cap : Nat} {bs : Bytes} (h : bs.length ≤ cap) : (Memory.ofBytesAt 0 bs).wf cap = true :=
  Memory.wfFrom_ofBytesAt (by omega)

/-- An empty memory is in canonical form. -/
@[simp] theorem Memory.wf_nil (cap : Nat) : Memory.wf cap [] = true := rfl

/-- A canonical memory specifies no byte at or beyond the capacity. -/
theorem Memory.byte?_beyond {lo cap : Nat} {m : Memory} (hm : Memory.wfFrom lo cap m = true) {x : Nat} (hx : cap ≤ x) :
    m.byte? x = none := by
  induction m generalizing lo with
  | nil => rfl
  | cons cell rest ih =>
    obtain ⟨k, b⟩ := cell
    simp only [Memory.wfFrom, Bool.and_eq_true, decide_eq_true_eq] at hm
    have hk : k ≠ x := by omega
    simp [hk, ih hm.2]

end Sys2Proof.Machine
end

