-- ==== Sys2Proof/Laws/State.lean ====
section
/-! SUPPORT. What every named update of the state does to every field, each true by definition, so that no proof unfolds
a record update. -/

namespace Sys2Proof.Machine

variable (s : State)

/-! ### `startCommand` -/

@[simp] theorem State.startCommand_params : (s.startCommand).params = s.params := rfl
@[simp] theorem State.startCommand_seq : (s.startCommand).seq = .busy := rfl
@[simp] theorem State.startCommand_ie : (s.startCommand).ie = s.ie := rfl
@[simp] theorem State.startCommand_done : (s.startCommand).done = false := rfl
@[simp] theorem State.startCommand_err : (s.startCommand).err = false := rfl
@[simp] theorem State.startCommand_freqValid : (s.startCommand).freqValid = s.freqValid := rfl
@[simp] theorem State.startCommand_codesValid : (s.startCommand).codesValid = s.codesValid := rfl
@[simp] theorem State.startCommand_cmd : (s.startCommand).cmd = s.cmd := rfl
@[simp] theorem State.startCommand_errcode : (s.startCommand).errcode = 0 := rfl
@[simp] theorem State.startCommand_srcLen : (s.startCommand).srcLen = s.srcLen := rfl
@[simp] theorem State.startCommand_dstLen : (s.startCommand).dstLen = s.dstLen := rfl
@[simp] theorem State.startCommand_unitSize : (s.startCommand).unitSize = s.unitSize := rfl
@[simp] theorem State.startCommand_extLen : (s.startCommand).extLen = s.extLen := rfl
@[simp] theorem State.startCommand_pad : (s.startCommand).pad = s.pad := rfl
@[simp] theorem State.startCommand_nruns : (s.startCommand).nruns = s.nruns := rfl
@[simp] theorem State.startCommand_efficiency : (s.startCommand).efficiency = s.efficiency := rfl
@[simp] theorem State.startCommand_nleaf : (s.startCommand).nleaf = s.nleaf := rfl
@[simp] theorem State.startCommand_freq : (s.startCommand).freq = s.freq := rfl
@[simp] theorem State.startCommand_tree : (s.startCommand).tree = s.tree := rfl
@[simp] theorem State.startCommand_codeLen : (s.startCommand).codeLen = s.codeLen := rfl
@[simp] theorem State.startCommand_codeBits : (s.startCommand).codeBits = s.codeBits := rfl
@[simp] theorem State.startCommand_src : (s.startCommand).src = s.src := rfl
@[simp] theorem State.startCommand_dst : (s.startCommand).dst = s.dst := rfl
@[simp] theorem State.startCommand_ext : (s.startCommand).ext = s.ext := rfl
@[simp] theorem State.startCommand_resetIn : (s.startCommand).resetIn = s.resetIn := rfl
@[simp] theorem State.startCommand_events : (s.startCommand).events = s.events := rfl
@[simp] theorem State.startCommand_lastResp : (s.startCommand).lastResp = s.lastResp := rfl
@[simp] theorem State.startCommand_draws : (s.startCommand).draws = s.draws := rfl

/-! ### `finish` -/

@[simp] theorem State.finish_params : (s.finish).params = s.params := rfl
@[simp] theorem State.finish_seq : (s.finish).seq = .idle := rfl
@[simp] theorem State.finish_ie : (s.finish).ie = s.ie := rfl
@[simp] theorem State.finish_done : (s.finish).done = true := rfl
@[simp] theorem State.finish_err : (s.finish).err = s.err := rfl
@[simp] theorem State.finish_freqValid : (s.finish).freqValid = s.freqValid := rfl
@[simp] theorem State.finish_codesValid : (s.finish).codesValid = s.codesValid := rfl
@[simp] theorem State.finish_cmd : (s.finish).cmd = s.cmd := rfl
@[simp] theorem State.finish_errcode : (s.finish).errcode = s.errcode := rfl
@[simp] theorem State.finish_srcLen : (s.finish).srcLen = s.srcLen := rfl
@[simp] theorem State.finish_dstLen : (s.finish).dstLen = s.dstLen := rfl
@[simp] theorem State.finish_unitSize : (s.finish).unitSize = s.unitSize := rfl
@[simp] theorem State.finish_extLen : (s.finish).extLen = s.extLen := rfl
@[simp] theorem State.finish_pad : (s.finish).pad = s.pad := rfl
@[simp] theorem State.finish_nruns : (s.finish).nruns = s.nruns := rfl
@[simp] theorem State.finish_efficiency : (s.finish).efficiency = s.efficiency := rfl
@[simp] theorem State.finish_nleaf : (s.finish).nleaf = s.nleaf := rfl
@[simp] theorem State.finish_freq : (s.finish).freq = s.freq := rfl
@[simp] theorem State.finish_tree : (s.finish).tree = s.tree := rfl
@[simp] theorem State.finish_codeLen : (s.finish).codeLen = s.codeLen := rfl
@[simp] theorem State.finish_codeBits : (s.finish).codeBits = s.codeBits := rfl
@[simp] theorem State.finish_src : (s.finish).src = s.src := rfl
@[simp] theorem State.finish_dst : (s.finish).dst = s.dst := rfl
@[simp] theorem State.finish_ext : (s.finish).ext = s.ext := rfl
@[simp] theorem State.finish_resetIn : (s.finish).resetIn = s.resetIn := rfl
@[simp] theorem State.finish_events : (s.finish).events = s.events := rfl
@[simp] theorem State.finish_lastResp : (s.finish).lastResp = s.lastResp := rfl
@[simp] theorem State.finish_draws : (s.finish).draws = s.draws + 1 := rfl

/-! ### `succeed` -/

@[simp] theorem State.succeed_params : (s.succeed).params = s.params := rfl
@[simp] theorem State.succeed_seq : (s.succeed).seq = .idle := rfl
@[simp] theorem State.succeed_ie : (s.succeed).ie = s.ie := rfl
@[simp] theorem State.succeed_done : (s.succeed).done = true := rfl
@[simp] theorem State.succeed_err : (s.succeed).err = s.err := rfl
@[simp] theorem State.succeed_freqValid : (s.succeed).freqValid = s.freqValid := rfl
@[simp] theorem State.succeed_codesValid : (s.succeed).codesValid = s.codesValid := rfl
@[simp] theorem State.succeed_cmd : (s.succeed).cmd = s.cmd := rfl
@[simp] theorem State.succeed_errcode : (s.succeed).errcode = 0 := rfl
@[simp] theorem State.succeed_srcLen : (s.succeed).srcLen = s.srcLen := rfl
@[simp] theorem State.succeed_dstLen : (s.succeed).dstLen = s.dstLen := rfl
@[simp] theorem State.succeed_unitSize : (s.succeed).unitSize = s.unitSize := rfl
@[simp] theorem State.succeed_extLen : (s.succeed).extLen = s.extLen := rfl
@[simp] theorem State.succeed_pad : (s.succeed).pad = s.pad := rfl
@[simp] theorem State.succeed_nruns : (s.succeed).nruns = s.nruns := rfl
@[simp] theorem State.succeed_efficiency : (s.succeed).efficiency = s.efficiency := rfl
@[simp] theorem State.succeed_nleaf : (s.succeed).nleaf = s.nleaf := rfl
@[simp] theorem State.succeed_freq : (s.succeed).freq = s.freq := rfl
@[simp] theorem State.succeed_tree : (s.succeed).tree = s.tree := rfl
@[simp] theorem State.succeed_codeLen : (s.succeed).codeLen = s.codeLen := rfl
@[simp] theorem State.succeed_codeBits : (s.succeed).codeBits = s.codeBits := rfl
@[simp] theorem State.succeed_src : (s.succeed).src = s.src := rfl
@[simp] theorem State.succeed_dst : (s.succeed).dst = s.dst := rfl
@[simp] theorem State.succeed_ext : (s.succeed).ext = s.ext := rfl
@[simp] theorem State.succeed_resetIn : (s.succeed).resetIn = s.resetIn := rfl
@[simp] theorem State.succeed_events : (s.succeed).events = s.events := rfl
@[simp] theorem State.succeed_lastResp : (s.succeed).lastResp = s.lastResp := rfl
@[simp] theorem State.succeed_draws : (s.succeed).draws = s.draws + 1 := rfl

/-! ### `raise` -/

@[simp] theorem State.raise_params (c : Cause) : (s.raise c).params = s.params := rfl
@[simp] theorem State.raise_seq (c : Cause) : (s.raise c).seq = .idle := rfl
@[simp] theorem State.raise_ie (c : Cause) : (s.raise c).ie = s.ie := rfl
@[simp] theorem State.raise_done (c : Cause) : (s.raise c).done = true := rfl
@[simp] theorem State.raise_err (c : Cause) : (s.raise c).err = true := rfl
@[simp] theorem State.raise_freqValid (c : Cause) : (s.raise c).freqValid = s.freqValid := rfl
@[simp] theorem State.raise_codesValid (c : Cause) : (s.raise c).codesValid = s.codesValid := rfl
@[simp] theorem State.raise_cmd (c : Cause) : (s.raise c).cmd = s.cmd := rfl
@[simp] theorem State.raise_errcode (c : Cause) : (s.raise c).errcode = c.word := rfl
@[simp] theorem State.raise_srcLen (c : Cause) : (s.raise c).srcLen = s.srcLen := rfl
@[simp] theorem State.raise_dstLen (c : Cause) : (s.raise c).dstLen = s.dstLen := rfl
@[simp] theorem State.raise_unitSize (c : Cause) : (s.raise c).unitSize = s.unitSize := rfl
@[simp] theorem State.raise_extLen (c : Cause) : (s.raise c).extLen = s.extLen := rfl
@[simp] theorem State.raise_pad (c : Cause) : (s.raise c).pad = s.pad := rfl
@[simp] theorem State.raise_nruns (c : Cause) : (s.raise c).nruns = s.nruns := rfl
@[simp] theorem State.raise_efficiency (c : Cause) : (s.raise c).efficiency = s.efficiency := rfl
@[simp] theorem State.raise_nleaf (c : Cause) : (s.raise c).nleaf = s.nleaf := rfl
@[simp] theorem State.raise_freq (c : Cause) : (s.raise c).freq = s.freq := rfl
@[simp] theorem State.raise_tree (c : Cause) : (s.raise c).tree = s.tree := rfl
@[simp] theorem State.raise_codeLen (c : Cause) : (s.raise c).codeLen = s.codeLen := rfl
@[simp] theorem State.raise_codeBits (c : Cause) : (s.raise c).codeBits = s.codeBits := rfl
@[simp] theorem State.raise_src (c : Cause) : (s.raise c).src = s.src := rfl
@[simp] theorem State.raise_dst (c : Cause) : (s.raise c).dst = s.dst := rfl
@[simp] theorem State.raise_ext (c : Cause) : (s.raise c).ext = s.ext := rfl
@[simp] theorem State.raise_resetIn (c : Cause) : (s.raise c).resetIn = s.resetIn := rfl
@[simp] theorem State.raise_events (c : Cause) : (s.raise c).events = s.events := rfl
@[simp] theorem State.raise_lastResp (c : Cause) : (s.raise c).lastResp = s.lastResp := rfl
@[simp] theorem State.raise_draws (c : Cause) : (s.raise c).draws = s.draws + 1 := rfl

/-! ### `ackStatus` -/

@[simp] theorem State.ackStatus_params (v : Word) : (s.ackStatus v).params = s.params := rfl
@[simp] theorem State.ackStatus_seq (v : Word) : (s.ackStatus v).seq = s.seq := rfl
@[simp] theorem State.ackStatus_ie (v : Word) : (s.ackStatus v).ie = s.ie := rfl
@[simp] theorem State.ackStatus_done (v : Word) : (s.ackStatus v).done = (s.done && !v.getLsbD 1) := rfl
@[simp] theorem State.ackStatus_err (v : Word) : (s.ackStatus v).err = (s.err && !v.getLsbD 2) := rfl
@[simp] theorem State.ackStatus_freqValid (v : Word) : (s.ackStatus v).freqValid = s.freqValid := rfl
@[simp] theorem State.ackStatus_codesValid (v : Word) : (s.ackStatus v).codesValid = s.codesValid := rfl
@[simp] theorem State.ackStatus_cmd (v : Word) : (s.ackStatus v).cmd = s.cmd := rfl
@[simp] theorem State.ackStatus_errcode (v : Word) : (s.ackStatus v).errcode = s.errcode := rfl
@[simp] theorem State.ackStatus_srcLen (v : Word) : (s.ackStatus v).srcLen = s.srcLen := rfl
@[simp] theorem State.ackStatus_dstLen (v : Word) : (s.ackStatus v).dstLen = s.dstLen := rfl
@[simp] theorem State.ackStatus_unitSize (v : Word) : (s.ackStatus v).unitSize = s.unitSize := rfl
@[simp] theorem State.ackStatus_extLen (v : Word) : (s.ackStatus v).extLen = s.extLen := rfl
@[simp] theorem State.ackStatus_pad (v : Word) : (s.ackStatus v).pad = s.pad := rfl
@[simp] theorem State.ackStatus_nruns (v : Word) : (s.ackStatus v).nruns = s.nruns := rfl
@[simp] theorem State.ackStatus_efficiency (v : Word) : (s.ackStatus v).efficiency = s.efficiency := rfl
@[simp] theorem State.ackStatus_nleaf (v : Word) : (s.ackStatus v).nleaf = s.nleaf := rfl
@[simp] theorem State.ackStatus_freq (v : Word) : (s.ackStatus v).freq = s.freq := rfl
@[simp] theorem State.ackStatus_tree (v : Word) : (s.ackStatus v).tree = s.tree := rfl
@[simp] theorem State.ackStatus_codeLen (v : Word) : (s.ackStatus v).codeLen = s.codeLen := rfl
@[simp] theorem State.ackStatus_codeBits (v : Word) : (s.ackStatus v).codeBits = s.codeBits := rfl
@[simp] theorem State.ackStatus_src (v : Word) : (s.ackStatus v).src = s.src := rfl
@[simp] theorem State.ackStatus_dst (v : Word) : (s.ackStatus v).dst = s.dst := rfl
@[simp] theorem State.ackStatus_ext (v : Word) : (s.ackStatus v).ext = s.ext := rfl
@[simp] theorem State.ackStatus_resetIn (v : Word) : (s.ackStatus v).resetIn = s.resetIn := rfl
@[simp] theorem State.ackStatus_events (v : Word) : (s.ackStatus v).events = s.events := rfl
@[simp] theorem State.ackStatus_lastResp (v : Word) : (s.ackStatus v).lastResp = s.lastResp := rfl
@[simp] theorem State.ackStatus_draws (v : Word) : (s.ackStatus v).draws = s.draws := rfl

/-! ### `setFreq` -/

@[simp] theorem State.setFreq_params (f : Vector Word 256) : (s.setFreq f).params = s.params := rfl
@[simp] theorem State.setFreq_seq (f : Vector Word 256) : (s.setFreq f).seq = s.seq := rfl
@[simp] theorem State.setFreq_ie (f : Vector Word 256) : (s.setFreq f).ie = s.ie := rfl
@[simp] theorem State.setFreq_done (f : Vector Word 256) : (s.setFreq f).done = s.done := rfl
@[simp] theorem State.setFreq_err (f : Vector Word 256) : (s.setFreq f).err = s.err := rfl
@[simp] theorem State.setFreq_freqValid (f : Vector Word 256) : (s.setFreq f).freqValid = true := rfl
@[simp] theorem State.setFreq_codesValid (f : Vector Word 256) : (s.setFreq f).codesValid = s.codesValid := rfl
@[simp] theorem State.setFreq_cmd (f : Vector Word 256) : (s.setFreq f).cmd = s.cmd := rfl
@[simp] theorem State.setFreq_errcode (f : Vector Word 256) : (s.setFreq f).errcode = s.errcode := rfl
@[simp] theorem State.setFreq_srcLen (f : Vector Word 256) : (s.setFreq f).srcLen = s.srcLen := rfl
@[simp] theorem State.setFreq_dstLen (f : Vector Word 256) : (s.setFreq f).dstLen = s.dstLen := rfl
@[simp] theorem State.setFreq_unitSize (f : Vector Word 256) : (s.setFreq f).unitSize = s.unitSize := rfl
@[simp] theorem State.setFreq_extLen (f : Vector Word 256) : (s.setFreq f).extLen = s.extLen := rfl
@[simp] theorem State.setFreq_pad (f : Vector Word 256) : (s.setFreq f).pad = s.pad := rfl
@[simp] theorem State.setFreq_nruns (f : Vector Word 256) : (s.setFreq f).nruns = s.nruns := rfl
@[simp] theorem State.setFreq_efficiency (f : Vector Word 256) : (s.setFreq f).efficiency = s.efficiency := rfl
@[simp] theorem State.setFreq_nleaf (f : Vector Word 256) : (s.setFreq f).nleaf = s.nleaf := rfl
@[simp] theorem State.setFreq_freq (f : Vector Word 256) : (s.setFreq f).freq = f := rfl
@[simp] theorem State.setFreq_tree (f : Vector Word 256) : (s.setFreq f).tree = s.tree := rfl
@[simp] theorem State.setFreq_codeLen (f : Vector Word 256) : (s.setFreq f).codeLen = s.codeLen := rfl
@[simp] theorem State.setFreq_codeBits (f : Vector Word 256) : (s.setFreq f).codeBits = s.codeBits := rfl
@[simp] theorem State.setFreq_src (f : Vector Word 256) : (s.setFreq f).src = s.src := rfl
@[simp] theorem State.setFreq_dst (f : Vector Word 256) : (s.setFreq f).dst = s.dst := rfl
@[simp] theorem State.setFreq_ext (f : Vector Word 256) : (s.setFreq f).ext = s.ext := rfl
@[simp] theorem State.setFreq_resetIn (f : Vector Word 256) : (s.setFreq f).resetIn = s.resetIn := rfl
@[simp] theorem State.setFreq_events (f : Vector Word 256) : (s.setFreq f).events = s.events := rfl
@[simp] theorem State.setFreq_lastResp (f : Vector Word 256) : (s.setFreq f).lastResp = s.lastResp := rfl
@[simp] theorem State.setFreq_draws (f : Vector Word 256) : (s.setFreq f).draws = s.draws := rfl

/-! ### `clearFreq` -/

@[simp] theorem State.clearFreq_params : (s.clearFreq).params = s.params := rfl
@[simp] theorem State.clearFreq_seq : (s.clearFreq).seq = s.seq := rfl
@[simp] theorem State.clearFreq_ie : (s.clearFreq).ie = s.ie := rfl
@[simp] theorem State.clearFreq_done : (s.clearFreq).done = s.done := rfl
@[simp] theorem State.clearFreq_err : (s.clearFreq).err = s.err := rfl
@[simp] theorem State.clearFreq_freqValid : (s.clearFreq).freqValid = false := rfl
@[simp] theorem State.clearFreq_codesValid : (s.clearFreq).codesValid = s.codesValid := rfl
@[simp] theorem State.clearFreq_cmd : (s.clearFreq).cmd = s.cmd := rfl
@[simp] theorem State.clearFreq_errcode : (s.clearFreq).errcode = s.errcode := rfl
@[simp] theorem State.clearFreq_srcLen : (s.clearFreq).srcLen = s.srcLen := rfl
@[simp] theorem State.clearFreq_dstLen : (s.clearFreq).dstLen = s.dstLen := rfl
@[simp] theorem State.clearFreq_unitSize : (s.clearFreq).unitSize = s.unitSize := rfl
@[simp] theorem State.clearFreq_extLen : (s.clearFreq).extLen = s.extLen := rfl
@[simp] theorem State.clearFreq_pad : (s.clearFreq).pad = s.pad := rfl
@[simp] theorem State.clearFreq_nruns : (s.clearFreq).nruns = s.nruns := rfl
@[simp] theorem State.clearFreq_efficiency : (s.clearFreq).efficiency = s.efficiency := rfl
@[simp] theorem State.clearFreq_nleaf : (s.clearFreq).nleaf = s.nleaf := rfl
@[simp] theorem State.clearFreq_freq : (s.clearFreq).freq = Config.freeFreqTable s.draws := rfl
@[simp] theorem State.clearFreq_tree : (s.clearFreq).tree = s.tree := rfl
@[simp] theorem State.clearFreq_codeLen : (s.clearFreq).codeLen = s.codeLen := rfl
@[simp] theorem State.clearFreq_codeBits : (s.clearFreq).codeBits = s.codeBits := rfl
@[simp] theorem State.clearFreq_src : (s.clearFreq).src = s.src := rfl
@[simp] theorem State.clearFreq_dst : (s.clearFreq).dst = s.dst := rfl
@[simp] theorem State.clearFreq_ext : (s.clearFreq).ext = s.ext := rfl
@[simp] theorem State.clearFreq_resetIn : (s.clearFreq).resetIn = s.resetIn := rfl
@[simp] theorem State.clearFreq_events : (s.clearFreq).events = s.events := rfl
@[simp] theorem State.clearFreq_lastResp : (s.clearFreq).lastResp = s.lastResp := rfl
@[simp] theorem State.clearFreq_draws : (s.clearFreq).draws = s.draws := rfl

/-! ### `setTree` -/

@[simp] theorem State.setTree_params (t : Option CodeTree) : (s.setTree t).params = s.params := rfl
@[simp] theorem State.setTree_seq (t : Option CodeTree) : (s.setTree t).seq = s.seq := rfl
@[simp] theorem State.setTree_ie (t : Option CodeTree) : (s.setTree t).ie = s.ie := rfl
@[simp] theorem State.setTree_done (t : Option CodeTree) : (s.setTree t).done = s.done := rfl
@[simp] theorem State.setTree_err (t : Option CodeTree) : (s.setTree t).err = s.err := rfl
@[simp] theorem State.setTree_freqValid (t : Option CodeTree) : (s.setTree t).freqValid = s.freqValid := rfl
@[simp] theorem State.setTree_codesValid (t : Option CodeTree) : (s.setTree t).codesValid = s.codesValid := rfl
@[simp] theorem State.setTree_cmd (t : Option CodeTree) : (s.setTree t).cmd = s.cmd := rfl
@[simp] theorem State.setTree_errcode (t : Option CodeTree) : (s.setTree t).errcode = s.errcode := rfl
@[simp] theorem State.setTree_srcLen (t : Option CodeTree) : (s.setTree t).srcLen = s.srcLen := rfl
@[simp] theorem State.setTree_dstLen (t : Option CodeTree) : (s.setTree t).dstLen = s.dstLen := rfl
@[simp] theorem State.setTree_unitSize (t : Option CodeTree) : (s.setTree t).unitSize = s.unitSize := rfl
@[simp] theorem State.setTree_extLen (t : Option CodeTree) : (s.setTree t).extLen = s.extLen := rfl
@[simp] theorem State.setTree_pad (t : Option CodeTree) : (s.setTree t).pad = s.pad := rfl
@[simp] theorem State.setTree_nruns (t : Option CodeTree) : (s.setTree t).nruns = s.nruns := rfl
@[simp] theorem State.setTree_efficiency (t : Option CodeTree) : (s.setTree t).efficiency = s.efficiency := rfl
@[simp] theorem State.setTree_nleaf (t : Option CodeTree) : (s.setTree t).nleaf = BitVec.ofNat 32 (leafCount t) := rfl
@[simp] theorem State.setTree_freq (t : Option CodeTree) : (s.setTree t).freq = s.freq := rfl
@[simp] theorem State.setTree_tree (t : Option CodeTree) : (s.setTree t).tree = t := rfl
@[simp] theorem State.setTree_codeLen (t : Option CodeTree) : (s.setTree t).codeLen = s.codeLen := rfl
@[simp] theorem State.setTree_codeBits (t : Option CodeTree) : (s.setTree t).codeBits = s.codeBits := rfl
@[simp] theorem State.setTree_src (t : Option CodeTree) : (s.setTree t).src = s.src := rfl
@[simp] theorem State.setTree_dst (t : Option CodeTree) : (s.setTree t).dst = s.dst := rfl
@[simp] theorem State.setTree_ext (t : Option CodeTree) : (s.setTree t).ext = s.ext := rfl
@[simp] theorem State.setTree_resetIn (t : Option CodeTree) : (s.setTree t).resetIn = s.resetIn := rfl
@[simp] theorem State.setTree_events (t : Option CodeTree) : (s.setTree t).events = s.events := rfl
@[simp] theorem State.setTree_lastResp (t : Option CodeTree) : (s.setTree t).lastResp = s.lastResp := rfl
@[simp] theorem State.setTree_draws (t : Option CodeTree) : (s.setTree t).draws = s.draws := rfl

/-! ### `setCodes` -/

@[simp] theorem State.setCodes_params (t : CodeTree) : (s.setCodes t).params = s.params := rfl
@[simp] theorem State.setCodes_seq (t : CodeTree) : (s.setCodes t).seq = s.seq := rfl
@[simp] theorem State.setCodes_ie (t : CodeTree) : (s.setCodes t).ie = s.ie := rfl
@[simp] theorem State.setCodes_done (t : CodeTree) : (s.setCodes t).done = s.done := rfl
@[simp] theorem State.setCodes_err (t : CodeTree) : (s.setCodes t).err = s.err := rfl
@[simp] theorem State.setCodes_freqValid (t : CodeTree) : (s.setCodes t).freqValid = s.freqValid := rfl
@[simp] theorem State.setCodes_codesValid (t : CodeTree) : (s.setCodes t).codesValid = true := rfl
@[simp] theorem State.setCodes_cmd (t : CodeTree) : (s.setCodes t).cmd = s.cmd := rfl
@[simp] theorem State.setCodes_errcode (t : CodeTree) : (s.setCodes t).errcode = s.errcode := rfl
@[simp] theorem State.setCodes_srcLen (t : CodeTree) : (s.setCodes t).srcLen = s.srcLen := rfl
@[simp] theorem State.setCodes_dstLen (t : CodeTree) : (s.setCodes t).dstLen = s.dstLen := rfl
@[simp] theorem State.setCodes_unitSize (t : CodeTree) : (s.setCodes t).unitSize = s.unitSize := rfl
@[simp] theorem State.setCodes_extLen (t : CodeTree) : (s.setCodes t).extLen = s.extLen := rfl
@[simp] theorem State.setCodes_pad (t : CodeTree) : (s.setCodes t).pad = s.pad := rfl
@[simp] theorem State.setCodes_nruns (t : CodeTree) : (s.setCodes t).nruns = s.nruns := rfl
@[simp] theorem State.setCodes_efficiency (t : CodeTree) : (s.setCodes t).efficiency = s.efficiency := rfl
@[simp] theorem State.setCodes_nleaf (t : CodeTree) : (s.setCodes t).nleaf = s.nleaf := rfl
@[simp] theorem State.setCodes_freq (t : CodeTree) : (s.setCodes t).freq = s.freq := rfl
@[simp] theorem State.setCodes_tree (t : CodeTree) : (s.setCodes t).tree = s.tree := rfl
@[simp] theorem State.setCodes_codeLen (t : CodeTree) : (s.setCodes t).codeLen = codeLenTable (deriveCodes t) := rfl
@[simp] theorem State.setCodes_codeBits (t : CodeTree) : (s.setCodes t).codeBits = codeBitsTable (deriveCodes t) := rfl
@[simp] theorem State.setCodes_src (t : CodeTree) : (s.setCodes t).src = s.src := rfl
@[simp] theorem State.setCodes_dst (t : CodeTree) : (s.setCodes t).dst = s.dst := rfl
@[simp] theorem State.setCodes_ext (t : CodeTree) : (s.setCodes t).ext = s.ext := rfl
@[simp] theorem State.setCodes_resetIn (t : CodeTree) : (s.setCodes t).resetIn = s.resetIn := rfl
@[simp] theorem State.setCodes_events (t : CodeTree) : (s.setCodes t).events = s.events := rfl
@[simp] theorem State.setCodes_lastResp (t : CodeTree) : (s.setCodes t).lastResp = s.lastResp := rfl
@[simp] theorem State.setCodes_draws (t : CodeTree) : (s.setCodes t).draws = s.draws := rfl

/-! ### `clearCodes` -/

@[simp] theorem State.clearCodes_params : (s.clearCodes).params = s.params := rfl
@[simp] theorem State.clearCodes_seq : (s.clearCodes).seq = s.seq := rfl
@[simp] theorem State.clearCodes_ie : (s.clearCodes).ie = s.ie := rfl
@[simp] theorem State.clearCodes_done : (s.clearCodes).done = s.done := rfl
@[simp] theorem State.clearCodes_err : (s.clearCodes).err = s.err := rfl
@[simp] theorem State.clearCodes_freqValid : (s.clearCodes).freqValid = s.freqValid := rfl
@[simp] theorem State.clearCodes_codesValid : (s.clearCodes).codesValid = false := rfl
@[simp] theorem State.clearCodes_cmd : (s.clearCodes).cmd = s.cmd := rfl
@[simp] theorem State.clearCodes_errcode : (s.clearCodes).errcode = s.errcode := rfl
@[simp] theorem State.clearCodes_srcLen : (s.clearCodes).srcLen = s.srcLen := rfl
@[simp] theorem State.clearCodes_dstLen : (s.clearCodes).dstLen = s.dstLen := rfl
@[simp] theorem State.clearCodes_unitSize : (s.clearCodes).unitSize = s.unitSize := rfl
@[simp] theorem State.clearCodes_extLen : (s.clearCodes).extLen = s.extLen := rfl
@[simp] theorem State.clearCodes_pad : (s.clearCodes).pad = s.pad := rfl
@[simp] theorem State.clearCodes_nruns : (s.clearCodes).nruns = s.nruns := rfl
@[simp] theorem State.clearCodes_efficiency : (s.clearCodes).efficiency = s.efficiency := rfl
@[simp] theorem State.clearCodes_nleaf : (s.clearCodes).nleaf = s.nleaf := rfl
@[simp] theorem State.clearCodes_freq : (s.clearCodes).freq = s.freq := rfl
@[simp] theorem State.clearCodes_tree : (s.clearCodes).tree = s.tree := rfl
@[simp] theorem State.clearCodes_codeLen : (s.clearCodes).codeLen = Config.freeCodeLenTable s.draws := rfl
@[simp] theorem State.clearCodes_codeBits : (s.clearCodes).codeBits = Config.freeCodeBitsTable s.draws := rfl
@[simp] theorem State.clearCodes_src : (s.clearCodes).src = s.src := rfl
@[simp] theorem State.clearCodes_dst : (s.clearCodes).dst = s.dst := rfl
@[simp] theorem State.clearCodes_ext : (s.clearCodes).ext = s.ext := rfl
@[simp] theorem State.clearCodes_resetIn : (s.clearCodes).resetIn = s.resetIn := rfl
@[simp] theorem State.clearCodes_events : (s.clearCodes).events = s.events := rfl
@[simp] theorem State.clearCodes_lastResp : (s.clearCodes).lastResp = s.lastResp := rfl
@[simp] theorem State.clearCodes_draws : (s.clearCodes).draws = s.draws := rfl

/-! ### `noOutput` -/

@[simp] theorem State.noOutput_params : (s.noOutput).params = s.params := rfl
@[simp] theorem State.noOutput_seq : (s.noOutput).seq = s.seq := rfl
@[simp] theorem State.noOutput_ie : (s.noOutput).ie = s.ie := rfl
@[simp] theorem State.noOutput_done : (s.noOutput).done = s.done := rfl
@[simp] theorem State.noOutput_err : (s.noOutput).err = s.err := rfl
@[simp] theorem State.noOutput_freqValid : (s.noOutput).freqValid = s.freqValid := rfl
@[simp] theorem State.noOutput_codesValid : (s.noOutput).codesValid = s.codesValid := rfl
@[simp] theorem State.noOutput_cmd : (s.noOutput).cmd = s.cmd := rfl
@[simp] theorem State.noOutput_errcode : (s.noOutput).errcode = s.errcode := rfl
@[simp] theorem State.noOutput_srcLen : (s.noOutput).srcLen = s.srcLen := rfl
@[simp] theorem State.noOutput_dstLen : (s.noOutput).dstLen = 0 := rfl
@[simp] theorem State.noOutput_unitSize : (s.noOutput).unitSize = s.unitSize := rfl
@[simp] theorem State.noOutput_extLen : (s.noOutput).extLen = s.extLen := rfl
@[simp] theorem State.noOutput_pad : (s.noOutput).pad = s.pad := rfl
@[simp] theorem State.noOutput_nruns : (s.noOutput).nruns = s.nruns := rfl
@[simp] theorem State.noOutput_efficiency : (s.noOutput).efficiency = s.efficiency := rfl
@[simp] theorem State.noOutput_nleaf : (s.noOutput).nleaf = s.nleaf := rfl
@[simp] theorem State.noOutput_freq : (s.noOutput).freq = s.freq := rfl
@[simp] theorem State.noOutput_tree : (s.noOutput).tree = s.tree := rfl
@[simp] theorem State.noOutput_codeLen : (s.noOutput).codeLen = s.codeLen := rfl
@[simp] theorem State.noOutput_codeBits : (s.noOutput).codeBits = s.codeBits := rfl
@[simp] theorem State.noOutput_src : (s.noOutput).src = s.src := rfl
@[simp] theorem State.noOutput_dst : (s.noOutput).dst = s.dst := rfl
@[simp] theorem State.noOutput_ext : (s.noOutput).ext = s.ext := rfl
@[simp] theorem State.noOutput_resetIn : (s.noOutput).resetIn = s.resetIn := rfl
@[simp] theorem State.noOutput_events : (s.noOutput).events = s.events := rfl
@[simp] theorem State.noOutput_lastResp : (s.noOutput).lastResp = s.lastResp := rfl
@[simp] theorem State.noOutput_draws : (s.noOutput).draws = s.draws := rfl

/-! ### `spoilDst` -/

@[simp] theorem State.spoilDst_params : (s.spoilDst).params = s.params := rfl
@[simp] theorem State.spoilDst_seq : (s.spoilDst).seq = s.seq := rfl
@[simp] theorem State.spoilDst_ie : (s.spoilDst).ie = s.ie := rfl
@[simp] theorem State.spoilDst_done : (s.spoilDst).done = s.done := rfl
@[simp] theorem State.spoilDst_err : (s.spoilDst).err = s.err := rfl
@[simp] theorem State.spoilDst_freqValid : (s.spoilDst).freqValid = s.freqValid := rfl
@[simp] theorem State.spoilDst_codesValid : (s.spoilDst).codesValid = s.codesValid := rfl
@[simp] theorem State.spoilDst_cmd : (s.spoilDst).cmd = s.cmd := rfl
@[simp] theorem State.spoilDst_errcode : (s.spoilDst).errcode = s.errcode := rfl
@[simp] theorem State.spoilDst_srcLen : (s.spoilDst).srcLen = s.srcLen := rfl
@[simp] theorem State.spoilDst_dstLen : (s.spoilDst).dstLen = 0 := rfl
@[simp] theorem State.spoilDst_unitSize : (s.spoilDst).unitSize = s.unitSize := rfl
@[simp] theorem State.spoilDst_extLen : (s.spoilDst).extLen = s.extLen := rfl
@[simp] theorem State.spoilDst_pad : (s.spoilDst).pad = s.pad := rfl
@[simp] theorem State.spoilDst_nruns : (s.spoilDst).nruns = s.nruns := rfl
@[simp] theorem State.spoilDst_efficiency : (s.spoilDst).efficiency = s.efficiency := rfl
@[simp] theorem State.spoilDst_nleaf : (s.spoilDst).nleaf = s.nleaf := rfl
@[simp] theorem State.spoilDst_freq : (s.spoilDst).freq = s.freq := rfl
@[simp] theorem State.spoilDst_tree : (s.spoilDst).tree = s.tree := rfl
@[simp] theorem State.spoilDst_codeLen : (s.spoilDst).codeLen = s.codeLen := rfl
@[simp] theorem State.spoilDst_codeBits : (s.spoilDst).codeBits = s.codeBits := rfl
@[simp] theorem State.spoilDst_src : (s.spoilDst).src = s.src := rfl
@[simp] theorem State.spoilDst_dst : (s.spoilDst).dst = [] := rfl
@[simp] theorem State.spoilDst_ext : (s.spoilDst).ext = s.ext := rfl
@[simp] theorem State.spoilDst_resetIn : (s.spoilDst).resetIn = s.resetIn := rfl
@[simp] theorem State.spoilDst_events : (s.spoilDst).events = s.events := rfl
@[simp] theorem State.spoilDst_lastResp : (s.spoilDst).lastResp = s.lastResp := rfl
@[simp] theorem State.spoilDst_draws : (s.spoilDst).draws = s.draws := rfl

/-! ### `setNruns` -/

@[simp] theorem State.setNruns_params (n : Nat) : (s.setNruns n).params = s.params := rfl
@[simp] theorem State.setNruns_seq (n : Nat) : (s.setNruns n).seq = s.seq := rfl
@[simp] theorem State.setNruns_ie (n : Nat) : (s.setNruns n).ie = s.ie := rfl
@[simp] theorem State.setNruns_done (n : Nat) : (s.setNruns n).done = s.done := rfl
@[simp] theorem State.setNruns_err (n : Nat) : (s.setNruns n).err = s.err := rfl
@[simp] theorem State.setNruns_freqValid (n : Nat) : (s.setNruns n).freqValid = s.freqValid := rfl
@[simp] theorem State.setNruns_codesValid (n : Nat) : (s.setNruns n).codesValid = s.codesValid := rfl
@[simp] theorem State.setNruns_cmd (n : Nat) : (s.setNruns n).cmd = s.cmd := rfl
@[simp] theorem State.setNruns_errcode (n : Nat) : (s.setNruns n).errcode = s.errcode := rfl
@[simp] theorem State.setNruns_srcLen (n : Nat) : (s.setNruns n).srcLen = s.srcLen := rfl
@[simp] theorem State.setNruns_dstLen (n : Nat) : (s.setNruns n).dstLen = s.dstLen := rfl
@[simp] theorem State.setNruns_unitSize (n : Nat) : (s.setNruns n).unitSize = s.unitSize := rfl
@[simp] theorem State.setNruns_extLen (n : Nat) : (s.setNruns n).extLen = s.extLen := rfl
@[simp] theorem State.setNruns_pad (n : Nat) : (s.setNruns n).pad = s.pad := rfl
@[simp] theorem State.setNruns_nruns (n : Nat) : (s.setNruns n).nruns = BitVec.ofNat 32 n := rfl
@[simp] theorem State.setNruns_efficiency (n : Nat) : (s.setNruns n).efficiency = s.efficiency := rfl
@[simp] theorem State.setNruns_nleaf (n : Nat) : (s.setNruns n).nleaf = s.nleaf := rfl
@[simp] theorem State.setNruns_freq (n : Nat) : (s.setNruns n).freq = s.freq := rfl
@[simp] theorem State.setNruns_tree (n : Nat) : (s.setNruns n).tree = s.tree := rfl
@[simp] theorem State.setNruns_codeLen (n : Nat) : (s.setNruns n).codeLen = s.codeLen := rfl
@[simp] theorem State.setNruns_codeBits (n : Nat) : (s.setNruns n).codeBits = s.codeBits := rfl
@[simp] theorem State.setNruns_src (n : Nat) : (s.setNruns n).src = s.src := rfl
@[simp] theorem State.setNruns_dst (n : Nat) : (s.setNruns n).dst = s.dst := rfl
@[simp] theorem State.setNruns_ext (n : Nat) : (s.setNruns n).ext = s.ext := rfl
@[simp] theorem State.setNruns_resetIn (n : Nat) : (s.setNruns n).resetIn = s.resetIn := rfl
@[simp] theorem State.setNruns_events (n : Nat) : (s.setNruns n).events = s.events := rfl
@[simp] theorem State.setNruns_lastResp (n : Nat) : (s.setNruns n).lastResp = s.lastResp := rfl
@[simp] theorem State.setNruns_draws (n : Nat) : (s.setNruns n).draws = s.draws := rfl

/-! ### `setEfficiency` -/

@[simp] theorem State.setEfficiency_params (a b : Nat) : (s.setEfficiency a b).params = s.params := rfl
@[simp] theorem State.setEfficiency_seq (a b : Nat) : (s.setEfficiency a b).seq = s.seq := rfl
@[simp] theorem State.setEfficiency_ie (a b : Nat) : (s.setEfficiency a b).ie = s.ie := rfl
@[simp] theorem State.setEfficiency_done (a b : Nat) : (s.setEfficiency a b).done = s.done := rfl
@[simp] theorem State.setEfficiency_err (a b : Nat) : (s.setEfficiency a b).err = s.err := rfl
@[simp] theorem State.setEfficiency_freqValid (a b : Nat) : (s.setEfficiency a b).freqValid = s.freqValid := rfl
@[simp] theorem State.setEfficiency_codesValid (a b : Nat) : (s.setEfficiency a b).codesValid = s.codesValid := rfl
@[simp] theorem State.setEfficiency_cmd (a b : Nat) : (s.setEfficiency a b).cmd = s.cmd := rfl
@[simp] theorem State.setEfficiency_errcode (a b : Nat) : (s.setEfficiency a b).errcode = s.errcode := rfl
@[simp] theorem State.setEfficiency_srcLen (a b : Nat) : (s.setEfficiency a b).srcLen = s.srcLen := rfl
@[simp] theorem State.setEfficiency_dstLen (a b : Nat) : (s.setEfficiency a b).dstLen = s.dstLen := rfl
@[simp] theorem State.setEfficiency_unitSize (a b : Nat) : (s.setEfficiency a b).unitSize = s.unitSize := rfl
@[simp] theorem State.setEfficiency_extLen (a b : Nat) : (s.setEfficiency a b).extLen = s.extLen := rfl
@[simp] theorem State.setEfficiency_pad (a b : Nat) : (s.setEfficiency a b).pad = s.pad := rfl
@[simp] theorem State.setEfficiency_nruns (a b : Nat) : (s.setEfficiency a b).nruns = s.nruns := rfl
@[simp] theorem State.setEfficiency_efficiency (a b : Nat) : (s.setEfficiency a b).efficiency = efficiencyWord a b := rfl
@[simp] theorem State.setEfficiency_nleaf (a b : Nat) : (s.setEfficiency a b).nleaf = s.nleaf := rfl
@[simp] theorem State.setEfficiency_freq (a b : Nat) : (s.setEfficiency a b).freq = s.freq := rfl
@[simp] theorem State.setEfficiency_tree (a b : Nat) : (s.setEfficiency a b).tree = s.tree := rfl
@[simp] theorem State.setEfficiency_codeLen (a b : Nat) : (s.setEfficiency a b).codeLen = s.codeLen := rfl
@[simp] theorem State.setEfficiency_codeBits (a b : Nat) : (s.setEfficiency a b).codeBits = s.codeBits := rfl
@[simp] theorem State.setEfficiency_src (a b : Nat) : (s.setEfficiency a b).src = s.src := rfl
@[simp] theorem State.setEfficiency_dst (a b : Nat) : (s.setEfficiency a b).dst = s.dst := rfl
@[simp] theorem State.setEfficiency_ext (a b : Nat) : (s.setEfficiency a b).ext = s.ext := rfl
@[simp] theorem State.setEfficiency_resetIn (a b : Nat) : (s.setEfficiency a b).resetIn = s.resetIn := rfl
@[simp] theorem State.setEfficiency_events (a b : Nat) : (s.setEfficiency a b).events = s.events := rfl
@[simp] theorem State.setEfficiency_lastResp (a b : Nat) : (s.setEfficiency a b).lastResp = s.lastResp := rfl
@[simp] theorem State.setEfficiency_draws (a b : Nat) : (s.setEfficiency a b).draws = s.draws := rfl

/-! ### `setExt` -/

@[simp] theorem State.setExt_params (e : Bytes) : (s.setExt e).params = s.params := rfl
@[simp] theorem State.setExt_seq (e : Bytes) : (s.setExt e).seq = s.seq := rfl
@[simp] theorem State.setExt_ie (e : Bytes) : (s.setExt e).ie = s.ie := rfl
@[simp] theorem State.setExt_done (e : Bytes) : (s.setExt e).done = s.done := rfl
@[simp] theorem State.setExt_err (e : Bytes) : (s.setExt e).err = s.err := rfl
@[simp] theorem State.setExt_freqValid (e : Bytes) : (s.setExt e).freqValid = s.freqValid := rfl
@[simp] theorem State.setExt_codesValid (e : Bytes) : (s.setExt e).codesValid = s.codesValid := rfl
@[simp] theorem State.setExt_cmd (e : Bytes) : (s.setExt e).cmd = s.cmd := rfl
@[simp] theorem State.setExt_errcode (e : Bytes) : (s.setExt e).errcode = s.errcode := rfl
@[simp] theorem State.setExt_srcLen (e : Bytes) : (s.setExt e).srcLen = s.srcLen := rfl
@[simp] theorem State.setExt_dstLen (e : Bytes) : (s.setExt e).dstLen = s.dstLen := rfl
@[simp] theorem State.setExt_unitSize (e : Bytes) : (s.setExt e).unitSize = s.unitSize := rfl
@[simp] theorem State.setExt_extLen (e : Bytes) : (s.setExt e).extLen = BitVec.ofNat 32 e.length := rfl
@[simp] theorem State.setExt_pad (e : Bytes) : (s.setExt e).pad = s.pad := rfl
@[simp] theorem State.setExt_nruns (e : Bytes) : (s.setExt e).nruns = s.nruns := rfl
@[simp] theorem State.setExt_efficiency (e : Bytes) : (s.setExt e).efficiency = s.efficiency := rfl
@[simp] theorem State.setExt_nleaf (e : Bytes) : (s.setExt e).nleaf = s.nleaf := rfl
@[simp] theorem State.setExt_freq (e : Bytes) : (s.setExt e).freq = s.freq := rfl
@[simp] theorem State.setExt_tree (e : Bytes) : (s.setExt e).tree = s.tree := rfl
@[simp] theorem State.setExt_codeLen (e : Bytes) : (s.setExt e).codeLen = s.codeLen := rfl
@[simp] theorem State.setExt_codeBits (e : Bytes) : (s.setExt e).codeBits = s.codeBits := rfl
@[simp] theorem State.setExt_src (e : Bytes) : (s.setExt e).src = s.src := rfl
@[simp] theorem State.setExt_dst (e : Bytes) : (s.setExt e).dst = s.dst := rfl
@[simp] theorem State.setExt_ext (e : Bytes) : (s.setExt e).ext = s.ext.write 0 e := rfl
@[simp] theorem State.setExt_resetIn (e : Bytes) : (s.setExt e).resetIn = s.resetIn := rfl
@[simp] theorem State.setExt_events (e : Bytes) : (s.setExt e).events = s.events := rfl
@[simp] theorem State.setExt_lastResp (e : Bytes) : (s.setExt e).lastResp = s.lastResp := rfl
@[simp] theorem State.setExt_draws (e : Bytes) : (s.setExt e).draws = s.draws := rfl

/-! ### `resetBlock` -/

@[simp] theorem State.resetBlock_params : (s.resetBlock).params = s.params := rfl
@[simp] theorem State.resetBlock_seq : (s.resetBlock).seq = .idle := rfl
@[simp] theorem State.resetBlock_ie : (s.resetBlock).ie = false := rfl
@[simp] theorem State.resetBlock_done : (s.resetBlock).done = false := rfl
@[simp] theorem State.resetBlock_err : (s.resetBlock).err = false := rfl
@[simp] theorem State.resetBlock_freqValid : (s.resetBlock).freqValid = false := rfl
@[simp] theorem State.resetBlock_codesValid : (s.resetBlock).codesValid = false := rfl
@[simp] theorem State.resetBlock_cmd : (s.resetBlock).cmd = 0 := rfl
@[simp] theorem State.resetBlock_errcode : (s.resetBlock).errcode = 0 := rfl
@[simp] theorem State.resetBlock_srcLen : (s.resetBlock).srcLen = 0 := rfl
@[simp] theorem State.resetBlock_dstLen : (s.resetBlock).dstLen = 0 := rfl
@[simp] theorem State.resetBlock_unitSize : (s.resetBlock).unitSize = 1 := rfl
@[simp] theorem State.resetBlock_extLen : (s.resetBlock).extLen = 0 := rfl
@[simp] theorem State.resetBlock_pad : (s.resetBlock).pad = 0 := rfl
@[simp] theorem State.resetBlock_nruns : (s.resetBlock).nruns = 0 := rfl
@[simp] theorem State.resetBlock_efficiency : (s.resetBlock).efficiency = 0 := rfl
@[simp] theorem State.resetBlock_nleaf : (s.resetBlock).nleaf = 0 := rfl
@[simp] theorem State.resetBlock_freq : (s.resetBlock).freq = Config.freeFreqTable s.draws := rfl
@[simp] theorem State.resetBlock_tree : (s.resetBlock).tree = none := rfl
@[simp] theorem State.resetBlock_codeLen : (s.resetBlock).codeLen = Config.freeCodeLenTable s.draws := rfl
@[simp] theorem State.resetBlock_codeBits : (s.resetBlock).codeBits = Config.freeCodeBitsTable s.draws := rfl
@[simp] theorem State.resetBlock_src : (s.resetBlock).src = [] := rfl
@[simp] theorem State.resetBlock_dst : (s.resetBlock).dst = [] := rfl
@[simp] theorem State.resetBlock_ext : (s.resetBlock).ext = [] := rfl
@[simp] theorem State.resetBlock_resetIn : (s.resetBlock).resetIn = s.resetIn := rfl
@[simp] theorem State.resetBlock_events : (s.resetBlock).events = s.events := rfl
@[simp] theorem State.resetBlock_lastResp : (s.resetBlock).lastResp = s.lastResp := rfl
@[simp] theorem State.resetBlock_draws : (s.resetBlock).draws = s.draws + 1 := rfl

/-! ### `busRead` -/

@[simp] theorem State.busRead_params (addr : Addr) (size : Size) : (s.busRead addr size).params = s.params := rfl
@[simp] theorem State.busRead_seq (addr : Addr) (size : Size) : (s.busRead addr size).seq = s.seq := rfl
@[simp] theorem State.busRead_ie (addr : Addr) (size : Size) : (s.busRead addr size).ie = s.ie := rfl
@[simp] theorem State.busRead_done (addr : Addr) (size : Size) : (s.busRead addr size).done = s.done := rfl
@[simp] theorem State.busRead_err (addr : Addr) (size : Size) : (s.busRead addr size).err = s.err := rfl
@[simp] theorem State.busRead_freqValid (addr : Addr) (size : Size) : (s.busRead addr size).freqValid = s.freqValid := rfl
@[simp] theorem State.busRead_codesValid (addr : Addr) (size : Size) : (s.busRead addr size).codesValid = s.codesValid := rfl
@[simp] theorem State.busRead_cmd (addr : Addr) (size : Size) : (s.busRead addr size).cmd = s.cmd := rfl
@[simp] theorem State.busRead_errcode (addr : Addr) (size : Size) : (s.busRead addr size).errcode = s.errcode := rfl
@[simp] theorem State.busRead_srcLen (addr : Addr) (size : Size) : (s.busRead addr size).srcLen = s.srcLen := rfl
@[simp] theorem State.busRead_dstLen (addr : Addr) (size : Size) : (s.busRead addr size).dstLen = s.dstLen := rfl
@[simp] theorem State.busRead_unitSize (addr : Addr) (size : Size) : (s.busRead addr size).unitSize = s.unitSize := rfl
@[simp] theorem State.busRead_extLen (addr : Addr) (size : Size) : (s.busRead addr size).extLen = s.extLen := rfl
@[simp] theorem State.busRead_pad (addr : Addr) (size : Size) : (s.busRead addr size).pad = s.pad := rfl
@[simp] theorem State.busRead_nruns (addr : Addr) (size : Size) : (s.busRead addr size).nruns = s.nruns := rfl
@[simp] theorem State.busRead_efficiency (addr : Addr) (size : Size) : (s.busRead addr size).efficiency = s.efficiency := rfl
@[simp] theorem State.busRead_nleaf (addr : Addr) (size : Size) : (s.busRead addr size).nleaf = s.nleaf := rfl
@[simp] theorem State.busRead_freq (addr : Addr) (size : Size) : (s.busRead addr size).freq = s.freq := rfl
@[simp] theorem State.busRead_tree (addr : Addr) (size : Size) : (s.busRead addr size).tree = s.tree := rfl
@[simp] theorem State.busRead_codeLen (addr : Addr) (size : Size) : (s.busRead addr size).codeLen = s.codeLen := rfl
@[simp] theorem State.busRead_codeBits (addr : Addr) (size : Size) : (s.busRead addr size).codeBits = s.codeBits := rfl
@[simp] theorem State.busRead_src (addr : Addr) (size : Size) : (s.busRead addr size).src = s.src := rfl
@[simp] theorem State.busRead_dst (addr : Addr) (size : Size) : (s.busRead addr size).dst = s.dst := rfl
@[simp] theorem State.busRead_ext (addr : Addr) (size : Size) : (s.busRead addr size).ext = s.ext := rfl
@[simp] theorem State.busRead_resetIn (addr : Addr) (size : Size) : (s.busRead addr size).resetIn = s.resetIn := rfl
@[simp] theorem State.busRead_events (addr : Addr) (size : Size) : (s.busRead addr size).events = s.events := rfl
@[simp] theorem State.busRead_lastResp (addr : Addr) (size : Size) : (s.busRead addr size).lastResp = some (s.readAnswer addr size) := rfl
@[simp] theorem State.busRead_draws (addr : Addr) (size : Size) : (s.busRead addr size).draws = s.draws + 1 := rfl

/-! ### Equality of states -/

/-- Two states with the same fields are the same state. -/
theorem State.eq_of_fields {s t : State}
    (h_params : s.params = t.params)
    (h_seq : s.seq = t.seq)
    (h_ie : s.ie = t.ie)
    (h_done : s.done = t.done)
    (h_err : s.err = t.err)
    (h_freqValid : s.freqValid = t.freqValid)
    (h_codesValid : s.codesValid = t.codesValid)
    (h_cmd : s.cmd = t.cmd)
    (h_errcode : s.errcode = t.errcode)
    (h_srcLen : s.srcLen = t.srcLen)
    (h_dstLen : s.dstLen = t.dstLen)
    (h_unitSize : s.unitSize = t.unitSize)
    (h_extLen : s.extLen = t.extLen)
    (h_pad : s.pad = t.pad)
    (h_nruns : s.nruns = t.nruns)
    (h_efficiency : s.efficiency = t.efficiency)
    (h_nleaf : s.nleaf = t.nleaf)
    (h_freq : s.freq = t.freq)
    (h_tree : s.tree = t.tree)
    (h_codeLen : s.codeLen = t.codeLen)
    (h_codeBits : s.codeBits = t.codeBits)
    (h_src : s.src = t.src)
    (h_dst : s.dst = t.dst)
    (h_ext : s.ext = t.ext)
    (h_resetIn : s.resetIn = t.resetIn)
    (h_events : s.events = t.events)
    (h_lastResp : s.lastResp = t.lastResp)
    (h_draws : s.draws = t.draws) : s = t := by
  cases s; cases t
  simp only at h_params h_seq h_ie h_done h_err h_freqValid h_codesValid h_cmd h_errcode h_srcLen h_dstLen h_unitSize h_extLen h_pad h_nruns h_efficiency h_nleaf h_freq h_tree h_codeLen h_codeBits h_src h_dst h_ext h_resetIn h_events h_lastResp h_draws
  subst_vars
  rfl

end Sys2Proof.Machine
end

