-- ==== Sys2Proof/Laws/Ops.lean ====
section
/-! SUPPORT. One lemma for each shared operation that says once everything it can do. -/

namespace Sys2Proof.Machine

/-! ### Tables and buffers -/

/-- Entry `b` of a table built from `f` is `f b`. -/
@[simp] theorem tabulate_getElem {α : Type} (f : Nat → α) (b : Nat) (h : b < 256) : (tabulate f)[b] = f b := by
  simp [tabulate]

@[simp] theorem State.bufBytes_length (s : State) (w : Buffer) (off n : Nat) : (s.bufBytes w off n).length = n := by
  simp [State.bufBytes]

@[simp] theorem State.bufBytes_getElem (s : State) (w : Buffer) (off n i : Nat) (h : i < (s.bufBytes w off n).length) :
    (s.bufBytes w off n)[i] = s.bufByte w (off + i) := by
  simp [State.bufBytes]

/-- A byte of a buffer with a specified content reads as that content. -/
theorem State.bufByte_of_byte? {s : State} {w : Buffer} {off : Nat} {b : Byte} (h : (s.memOf w).byte? off = some b) :
    s.bufByte w off = b := by
  simp [State.bufByte, h]

/-! ### Inputs and outputs -/

/-- The input of a command: CAP_SRC, or exactly the SRC_LEN bytes of SRC. -/
theorem State.srcInput_cases (s : State) :
    (s.params.srcCap < s.srcLen.toNat ∧ s.srcInput = .error .capSrc) ∨
      (s.srcLen.toNat ≤ s.params.srcCap ∧ s.srcInput = .ok (s.bufBytes .src 0 s.srcLen.toNat)) := by
  unfold State.srcInput
  split
  · exact .inl ⟨‹_›, rfl⟩
  · exact .inr ⟨Nat.le_of_not_lt ‹_›, rfl⟩

/-- The delivery of an output: CAP_DST, or DST and DST_LEN and nothing else. -/
theorem State.emit_cases (s : State) (out : Bytes) :
    (s.params.dstCap < out.length ∧ s.emit out = .error .capDst) ∨
      (out.length ≤ s.params.dstCap ∧
        s.emit out = .ok { s with dst := Memory.ofBytesAt 0 out, dstLen := BitVec.ofNat 32 out.length }) := by
  unfold State.emit
  split
  · exact .inl ⟨‹_›, rfl⟩
  · exact .inr ⟨Nat.le_of_not_lt ‹_›, rfl⟩

/-- SRC_LEN within SRC_CAP: the input is the SRC_LEN bytes of SRC. -/
theorem State.srcInput_ok {s : State} (h : s.srcLen.toNat ≤ s.params.srcCap) :
    s.srcInput = .ok (s.bufBytes .src 0 s.srcLen.toNat) := by
  rcases s.srcInput_cases with ⟨h', _⟩ | ⟨_, hi⟩
  · omega
  · exact hi

/-- SRC_LEN beyond SRC_CAP: CAP_SRC. -/
theorem State.srcInput_capSrc {s : State} (h : s.params.srcCap < s.srcLen.toNat) : s.srcInput = .error .capSrc := by
  rcases s.srcInput_cases with ⟨_, hi⟩ | ⟨h', _⟩
  · exact hi
  · omega

/-- An output that fits DST is delivered. -/
theorem State.emit_ok {s : State} {out : Bytes} (h : out.length ≤ s.params.dstCap) :
    s.emit out = .ok { s with dst := Memory.ofBytesAt 0 out, dstLen := BitVec.ofNat 32 out.length } := by
  rcases s.emit_cases out with ⟨h', _⟩ | ⟨_, hi⟩
  · omega
  · exact hi

/-- An output longer than DST_CAP is CAP_DST. -/
theorem State.emit_capDst {s : State} {out : Bytes} (h : s.params.dstCap < out.length) :
    s.emit out = .error .capDst := by
  rcases s.emit_cases out with ⟨_, hi⟩ | ⟨h', _⟩
  · exact hi
  · omega

/-- The inversion of a delivery. -/
theorem State.emit_eq_ok {s t : State} {out : Bytes} (h : s.emit out = .ok t) :
    t = { s with dst := Memory.ofBytesAt 0 out, dstLen := BitVec.ofNat 32 out.length } ∧
      out.length ≤ s.params.dstCap := by
  rcases s.emit_cases out with ⟨_, hi⟩ | ⟨h', hi⟩ <;> rw [hi] at h
  · cases h
  · exact ⟨by cases h; rfl, h'⟩

/-- An extension within EXT_CAP and without CR and LF passes the checks of COMPRESS. -/
theorem State.compressExt_ok {s : State} (h : s.extLen.toNat ≤ s.params.extCap)
    (hx : ∀ b ∈ s.extInput, b ≠ 0x0D#8 ∧ b ≠ 0x0A#8) : s.compressExt = .ok s.extInput := by
  unfold State.compressExt
  rw [if_neg (by omega), if_pos]
  simp only [extAllowed, List.all_eq_true, asciiCr, asciiLf]
  intro b hb
  simpa using hx b hb

@[simp] theorem runsLength_eq (runs : List Run) : runsLength runs = (expandRuns runs).length := by
  induction runs with
  | nil => rfl
  | cons run rest ih =>
    obtain ⟨k, unit⟩ := run
    simp [runsLength, expandRuns, ih]

/-- `emitRuns` is `emit` of the expansion: testing the length first changes nothing. -/
theorem State.emitRuns_eq_emit (s : State) (runs : List Run) : s.emitRuns runs = s.emit (expandRuns runs) := by
  simp only [State.emitRuns, runsLength_eq, State.emit]
  split <;> rfl

/-- The delivery of an extracted body is that of its bytes. -/
theorem State.emitExtracted_eq_emit (s : State) (x : Extracted) : s.emitExtracted x = s.emit (extractedBytes x) := by
  cases x with
  | rle runs n => exact s.emitRuns_eq_emit runs
  | huf out t pad => rfl

/-! ### Completion -/

/-- The completion event answers a next state and nothing else: the success write set, or the failure write set with
the error. -/
theorem complete_cases (onFail : State → State) (s : State) (r : Except Cause State) :
    (∃ t, r = .ok t ∧ complete onFail s r = .next t.succeed) ∨
      (∃ c, r = .error c ∧ complete onFail s r = .next ((onFail s).raise c)) := by
  cases r with
  | ok t => exact .inl ⟨t, rfl, rfl⟩
  | error c => exact .inr ⟨c, rfl, rfl⟩

/-- The inversion of the completion event. -/
theorem complete_eq_next {onFail : State → State} {s u : State} {r : Except Cause State}
    (h : complete onFail s r = .next u) :
    (∃ t, r = .ok t ∧ u = t.succeed) ∨ (∃ c, r = .error c ∧ u = (onFail s).raise c) := by
  cases r with
  | ok t => exact .inl ⟨t, rfl, by simpa [complete, eq_comm] using h⟩
  | error c => exact .inr ⟨c, rfl, by simpa [complete, eq_comm] using h⟩

/-! ### Composite updates, in terms of the basic ones -/

@[simp] theorem State.failPacker_eq (s : State) : s.failPacker = { s.spoilDst with pad := 0 } := rfl
@[simp] theorem State.failBuild_eq (s : State) : s.failBuild = ((s.spoilDst.setTree none).clearFreq).clearCodes := rfl
@[simp] theorem State.failCodes_eq (s : State) : s.failCodes = s.spoilDst.clearCodes := rfl
@[simp] theorem State.failSerialize_eq (s : State) : s.failSerialize = s.spoilDst := rfl
@[simp] theorem State.failDeserialize_eq (s : State) : s.failDeserialize = (s.spoilDst.setTree none).clearCodes := rfl
@[simp] theorem State.failHufEncode_eq (s : State) :
    s.failHufEncode = (((s.failPacker).setTree none).clearFreq).clearCodes := rfl
@[simp] theorem State.failHufDecode_eq (s : State) : s.failHufDecode = ((s.failPacker).setTree none).clearCodes := rfl
@[simp] theorem State.failRle_eq (s : State) : s.failRle = { s.spoilDst with nruns := 0 } := rfl
@[simp] theorem State.setCodesOf_some (s : State) (t : CodeTree) : s.setCodesOf (some t) = s.setCodes t := rfl
@[simp] theorem State.setCodesOf_none (s : State) : s.setCodesOf none = s.clearCodes := rfl

/-! ### The bus -/

/-- Everything a write to CTRL can do (R23, R281). -/
theorem State.writeCtrl_cases (s : State) (v : Word) :
    (v.getLsbD 2 = true ∧ s.writeCtrl v = s.resetBlock) ∨
      (v.getLsbD 2 = false ∧ v.getLsbD 0 = true ∧ s.busy = false ∧
        s.writeCtrl v = { s with ie := v.getLsbD 1 }.startCommand) ∨
      (v.getLsbD 2 = false ∧ (v.getLsbD 0 = false ∨ s.busy = true) ∧ s.writeCtrl v = { s with ie := v.getLsbD 1 }) := by
  unfold State.writeCtrl
  cases v.getLsbD 2 <;> cases v.getLsbD 0 <;> cases s.busy <;> simp

/-- Everything a bus write can do: the answer is recorded, and a write that the map refuses, or that is not to CTRL
while SEQ = BUSY, changes nothing else. -/
theorem State.busWrite_cases (s : State) (addr : Addr) (size : Size) (v : Word) :
    (s.busy = true ∧ s.locate addr size = some (.reg .ctrl) ∧
        s.busWrite addr size v = { s.writeCtrl v with lastResp := some (.write .okay) }) ∨
      (s.busy = true ∧ s.locate addr size ≠ some (.reg .ctrl) ∧
        s.busWrite addr size v = { s with lastResp := some (.write .okay) }) ∨
      (s.busy = false ∧ s.locate addr size = none ∧
        s.busWrite addr size v = { s with lastResp := some (.write .error) }) ∨
      (s.busy = false ∧ ∃ loc, s.locate addr size = some loc ∧
        s.busWrite addr size v = { s.writeLoc size v loc with lastResp := some (.write .okay) }) := by
  unfold State.busWrite
  cases hb : s.busy <;> cases hl : s.locate addr size <;> simp
  rename_i loc
  by_cases h : loc = .reg .ctrl <;> simp [h]

/-- A write that the map refuses while SEQ = IDLE is answered ERROR. -/
theorem State.busWrite_refused {s : State} {addr : Addr} {size : Size} {v : Word} (hb : s.busy = false)
    (hl : s.locate addr size = none) : s.busWrite addr size v = { s with lastResp := some (.write .error) } := by
  simp [State.busWrite, hb, hl]

/-- An admitted write while SEQ = IDLE takes effect. -/
theorem State.busWrite_idle {s : State} {addr : Addr} {size : Size} {v : Word} {loc : Loc} (hb : s.busy = false)
    (hl : s.locate addr size = some loc) :
    s.busWrite addr size v = { s.writeLoc size v loc with lastResp := some (.write .okay) } := by
  simp [State.busWrite, hb, hl]

/-- A write other than to CTRL while SEQ = BUSY changes nothing but the answer. -/
theorem State.busWrite_busy {s : State} {addr : Addr} {size : Size} {v : Word} (hb : s.busy = true)
    (hl : s.locate addr size ≠ some (.reg .ctrl)) :
    s.busWrite addr size v = { s with lastResp := some (.write .okay) } := by
  simp [State.busWrite, hb, hl]

/-- A write to CTRL takes effect in IDLE and in BUSY. -/
theorem State.busWrite_ctrl {s : State} {addr : Addr} {size : Size} {v : Word}
    (hl : s.locate addr size = some (.reg .ctrl)) :
    s.busWrite addr size v = { s.writeCtrl v with lastResp := some (.write .okay) } := by
  simp [State.busWrite, hl, State.writeLoc, State.writeReg]

/-- The answer to an admitted read while SEQ = IDLE. -/
theorem State.readAnswer_idle {s : State} {addr : Addr} {size : Size} {loc : Loc} (hb : s.busy = false)
    (hl : s.locate addr size = some loc) : s.readAnswer addr size = .read (s.readLoc size loc) .okay := by
  simp [State.readAnswer, hl, hb]

/-- The buffer of an offset, by its ranges. -/
theorem bufferAt_eq_some {a : Nat} {w : Buffer} :
    bufferAt a = some w ↔
      (w = .ext ∧ 0x4000 ≤ a ∧ a < 0x4100) ∨ (w = .src ∧ 0x1000000 ≤ a ∧ a < 0x2000000) ∨
        (w = .dst ∧ 0x2000000 ≤ a ∧ a < 0x3000000) := by
  unfold bufferAt
  split
  · cases w <;> simp <;> omega
  · split
    · cases w <;> simp <;> omega
    · split <;> cases w <;> simp <;> omega

@[simp] theorem leBytes_length (v : Word) (n : Nat) : (leBytes v n).length = n := by
  induction n generalizing v <;> simp [leBytes, *]

/-- Byte `k` of the little-endian bytes of a word is its bits 8k+7 .. 8k. -/
theorem leBytes_getElem? (v : Word) (n k : Nat) (h : k < n) : (leBytes v n)[k]? = some (v.extractLsb' (8 * k) 8) := by
  induction n generalizing v k with
  | zero => omega
  | succ n ih =>
    cases k with
    | zero =>
      simp [leBytes]
      apply BitVec.eq_of_getLsbD_eq
      intro i hi
      simp [hi]
    | succ k =>
      simp only [leBytes, List.getElem?_cons_succ]
      rw [ih _ _ (by omega)]
      congr 1
      apply BitVec.eq_of_getLsbD_eq
      intro i hi
      simp [hi]
      congr 1
      omega

/-! ### Steps -/

/-- A step with an event left performs it. -/
theorem stepState_cons {s : State} {e : Event} {rest : List Event} (h : s.events = e :: rest) :
    stepState s = perform e { s with events := rest } := by
  simp only [stepState, h]

/-- A bus transaction with the reset input released. -/
theorem onBus_released {s t : State} (h : s.resetIn = false) : onBus s t = .next t := by simp [onBus, h]

/-- Everything a step can do: the turn of the block where no event is left, else the first event. -/
theorem stepState_cases (s : State) :
    (s.events = [] ∧ stepState s = blockTurn s) ∨
      (∃ e rest, s.events = e :: rest ∧ stepState s = perform e { s with events := rest }) := by
  unfold stepState
  cases h : s.events with
  | nil => exact .inl ⟨rfl, rfl⟩
  | cons e rest => exact .inr ⟨e, rest, rfl, rfl⟩

/-- Everything the turn of the block can do. -/
theorem blockTurn_cases (s : State) :
    (s.seq = .idle ∧ blockTurn s = .next s) ∨
      (∃ i, s.seq = .busy ∧ decode s.cmd = .ok i ∧ blockTurn s = exec i s) ∨
      (∃ e, s.seq = .busy ∧ decode s.cmd = .error e ∧ blockTurn s = execIllegal s) := by
  unfold blockTurn
  cases hs : s.seq with
  | idle => exact .inl ⟨rfl, rfl⟩
  | busy =>
    cases hd : decode s.cmd with
    | ok i => exact .inr (.inl ⟨i, rfl, rfl, rfl⟩)
    | error e => exact .inr (.inr ⟨e, rfl, rfl, rfl⟩)

end Sys2Proof.Machine
end

