-- ==== Sys2Proof/Laws/Codec.lean ====
section
/-! SUPPORT. Small facts about the codec functions: the ranges of the pad count and of the leaf count. -/

namespace Sys2Proof.Machine

/-- A pad count is at most 7 (R130). -/
theorem padCount_le (n : Nat) : padCount n ≤ 7 := by
  unfold padCount
  omega

/-- The pad count a trailer holds is at most 7 (R132). -/
theorem unpackBits_pad_le {p : Bytes} {bits : Bits} {pad : Nat} (h : unpackBits p = .ok (bits, pad)) : pad ≤ 7 := by
  unfold unpackBits at h
  split at h
  · cases h
  · split at h
    · cases h
    · rename_i t _ hr
      dsimp only at h
      split at h
      · cases h
      · simp only [Except.ok.injEq, Prod.mk.injEq] at h
        rw [not_not] at hr
        obtain ⟨h1, h2⟩ := hr
        have := h.2
        bv_omega

/-- A byte sequence has at most 256 distinct bytes. -/
theorem dedup_length_le (data : Bytes) : data.dedup.length ≤ 256 := by
  have h := data.nodup_dedup.length_le_card
  have : Fintype.card Byte = 256 := by
    rw [Fintype.card_congr BitVec.equivFin.toEquiv]
    simp
  omega

/-- A leaf count is at most 256 (R158). -/
theorem leafCount_le (t : Option CodeTree) : leafCount t ≤ 256 := by
  cases t with
  | none => simp [leafCount]
  | some t => exact dedup_length_le t.leaves

/-- The FREQ entry of a byte counts it, for every input a buffer can hold (R150). -/
theorem freqTable_entry (data : Bytes) (h : data.length ≤ 2 ^ 24) (b : Byte) :
    ((freqTable data)[b.toNat]'b.isLt).toNat = data.count b := by
  simp only [freqTable, tabulate_getElem, freqOf, BitVec.ofNat_toNat]
  have : data.count b ≤ data.length := List.count_le_length
  simp
  omega

end Sys2Proof.Machine
end

