-- ==== Sys2Proof/Laws/Exec.lean ====
section
/-! SUPPORT. Every command as one shape: a body and a failure write set, completed. What a failure leaves is said once for
all commands, in the terms of the failure column. -/

namespace Sys2Proof.Machine

/-- The body of a command. -/
def bodyOf (i : Instr) (s : State) : Except Cause State :=
  match i with
  | .pack _ => bodyPack s
  | .unpack _ => bodyUnpack s
  | .hufBuild _ => bodyHufBuild s
  | .hufCodes _ => bodyHufCodes s
  | .hufSerialize _ => bodyHufSerialize s
  | .hufDeserialize _ => bodyHufDeserialize s
  | .hufEncode _ => bodyHufEncode s
  | .hufDecode _ => bodyHufDecode s
  | .rleEncodeChunk _ => bodyRleEncodeChunk s
  | .rleDecodeChunk _ => bodyRleDecodeChunk s
  | .rleEncode _ => bodyRleEncode s
  | .rleDecode _ => bodyRleDecode s
  | .compress m => bodyCompress m s
  | .extract _ => bodyExtract s

/-- The failure write set of a command. -/
def failOf (i : Instr) (s : State) : State :=
  match i with
  | .pack _ => s.failPacker
  | .unpack _ => s.failPacker
  | .hufBuild _ => s.failBuild
  | .hufCodes _ => s.failCodes
  | .hufSerialize _ => s.failSerialize
  | .hufDeserialize _ => s.failDeserialize
  | .hufEncode _ => s.failHufEncode
  | .hufDecode _ => s.failHufDecode
  | .rleEncodeChunk _ => s.failRle
  | .rleDecodeChunk _ => s.failRle
  | .rleEncode _ => s.failRle
  | .rleDecode _ => s.failRle
  | .compress m => s.failCompress m
  | .extract _ => s.failExtract

/-- Every command is its body completed. -/
theorem exec_eq_complete (i : Instr) (s : State) : exec i s = complete (failOf i) s (bodyOf i s) := by
  cases i <;> rfl

/-- A body that raises ends the command with that error and the failure write set. -/
theorem exec_of_error {i : Instr} {s : State} {c : Cause} (h : bodyOf i s = .error c) :
    exec i s = .next ((failOf i s).raise c) := by
  rw [exec_eq_complete, h]
  rfl

/-- A body that returns a state ends the command with success. -/
theorem exec_of_ok {i : Instr} {s t : State} (h : bodyOf i s = .ok t) : exec i s = .next t.succeed := by
  rw [exec_eq_complete, h]
  rfl

/-- Every failure write set is its column of R41. -/
theorem failOf_failedWith (i : Instr) (s : State) (c : Cause) :
    s.failedWith (s.failureColumn i) c.word ((failOf i s).raise c) := by
  cases i with
  | compress m =>
    simp only [failOf, State.failCompress, State.failureColumn]
    split
    · apply State.eq_of_fields <;> simp [rleColumn]
    · split <;> apply State.eq_of_fields <;> simp [hufEncodeColumn, leafCount]
  | extract m =>
    by_cases h1 : s.srcTag = tagRle
    · rw [show failOf (.extract m) s = s.failRle from if_pos h1, show s.failureColumn (.extract m) = rleColumn from if_pos h1]
      apply State.eq_of_fields <;> simp [rleColumn]
    · by_cases h2 : s.srcTag = tagHuf
      · rw [show failOf (.extract m) s = s.failHufDecode from (if_neg h1).trans (if_pos h2),
          show s.failureColumn (.extract m) = hufDecodeColumn from (if_neg h1).trans (if_pos h2)]
        apply State.eq_of_fields <;> simp [hufDecodeColumn, leafCount]
      · rw [show failOf (.extract m) s = s.spoilDst from (if_neg h1).trans (if_neg h2),
          show s.failureColumn (.extract m) = {} from (if_neg h1).trans (if_neg h2)]
        apply State.eq_of_fields <;> simp
  | pack _ | unpack _ => apply State.eq_of_fields <;> simp [failOf, State.failureColumn, packerColumn]
  | hufBuild _ | hufCodes _ | hufSerialize _ | hufDeserialize _ =>
    apply State.eq_of_fields <;> simp [failOf, State.failureColumn, leafCount]
  | hufEncode _ => apply State.eq_of_fields <;> simp [failOf, State.failureColumn, hufEncodeColumn, leafCount]
  | hufDecode _ => apply State.eq_of_fields <;> simp [failOf, State.failureColumn, hufDecodeColumn, leafCount]
  | rleEncodeChunk _ | rleDecodeChunk _ | rleEncode _ | rleDecode _ =>
    apply State.eq_of_fields <;> simp [failOf, State.failureColumn, rleColumn]

/-- A body that raises fails the command with exactly its failure column. -/
theorem failsWith_of_error {i : Instr} {s : State} {c : Cause} (h : bodyOf i s = .error c) : s.failsWith i c.word :=
  ⟨_, exec_of_error h, failOf_failedWith i s c⟩

end Sys2Proof.Machine
end

