-- ==== Sys2Proof/Laws/PerInstr.lean ====
section
/-! SUPPORT. Families of statements about every command as a piece of syntax, one lemma for each constructor. -/

namespace Sys2Proof.Laws.EncodeFields

/-- R90, R92: the CMD word of a command is well formed, and its fields are the command's OPCODE and METHOD. -/
def Statement (i : Instr) : Prop :=
  wellFormedWord (encode i) = true ∧ opcodeField (encode i) = opcodeOf i ∧ methodField (encode i) = methodOf i

theorem pack : ∀ m : BitVec 2, Statement (.pack m) := by unfold Statement; decide
theorem unpack : ∀ m : BitVec 2, Statement (.unpack m) := by unfold Statement; decide
theorem hufBuild : ∀ m : BitVec 2, Statement (.hufBuild m) := by unfold Statement; decide
theorem hufCodes : ∀ m : BitVec 2, Statement (.hufCodes m) := by unfold Statement; decide
theorem hufSerialize : ∀ m : BitVec 2, Statement (.hufSerialize m) := by unfold Statement; decide
theorem hufDeserialize : ∀ m : BitVec 2, Statement (.hufDeserialize m) := by unfold Statement; decide
theorem hufEncode : ∀ m : BitVec 2, Statement (.hufEncode m) := by unfold Statement; decide
theorem hufDecode : ∀ m : BitVec 2, Statement (.hufDecode m) := by unfold Statement; decide
theorem rleEncodeChunk : ∀ m : BitVec 2, Statement (.rleEncodeChunk m) := by unfold Statement; decide
theorem rleDecodeChunk : ∀ m : BitVec 2, Statement (.rleDecodeChunk m) := by unfold Statement; decide
theorem rleEncode : ∀ m : BitVec 2, Statement (.rleEncode m) := by unfold Statement; decide
theorem rleDecode : ∀ m : BitVec 2, Statement (.rleDecode m) := by unfold Statement; decide
theorem compress : ∀ m : BitVec 2, Statement (.compress m) := by unfold Statement; decide
theorem extract : ∀ m : BitVec 2, Statement (.extract m) := by unfold Statement; decide

end Sys2Proof.Laws.EncodeFields
end

