-- ==== Sys2Proof/Machine/Script.lean ====
section
/-! DEFINITION. The host script notation of 30_encoding.md R99: each statement's encoding is its bus transactions. -/

namespace Sys2Proof.Machine

/-- A line of a host script (R99). -/
inductive Stmt where
  /-- `wr <REG>, <value>` -/
  | wr (r : Reg) (v : Word)
  /-- `rd <REG>` -/
  | rd (r : Reg)
  /-- `wrbuf SRC|EXT, <offset>, <bytes>` -/
  | wrbuf (w : Buffer) (off : Nat) (bytes : Bytes)
  /-- `rdbuf DST|EXT, <offset>, <n>` -/
  | rdbuf (w : Buffer) (off n : Nat)
  /-- `run <MNEMONIC> [, METHOD=<m>]` -/
  | run (i : Instr)
  /-- `wait`, STATUS being polled `polls` times before the block completes (log 21) -/
  | wait (polls : Nat)
  /-- `clr` -/
  | clr
deriving DecidableEq, Repr

/-- `addr(REG)` (R99). -/
def regAddr (r : Reg) : Addr := BitVec.ofNat 26 r.offset

/-- The bus offset of a buffer byte (R62). -/
def bufAddr (w : Buffer) (off : Nat) : Addr := BitVec.ofNat 26 (bufferBase w + off)

/-- One size-1 write for each byte, at ascending addresses (R99). -/
def wrbufEvents (w : Buffer) (off : Nat) : Bytes → List Event
  | [] => []
  | b :: bs => .write (bufAddr w off) .one (b.setWidth 32) :: wrbufEvents w (off + 1) bs

/-- The transactions of a statement, CTRL.IE being `ie` when it runs (R99). -/
def Stmt.events (ie : Bool) : Stmt → List Event
  | .wr r v => [.write (regAddr r) .four v]
  | .rd r => [.read (regAddr r) .four]
  | .wrbuf w off bytes => wrbufEvents w off bytes
  | .rdbuf w off n => (List.range n).map fun i => .read (bufAddr w (off + i)) .one
  | .run i => [.write (regAddr .cmd) .four (encode i), .write (regAddr .ctrl) .four (0x1#32 ||| flagBit 1 ie)]
  | .wait polls =>
    List.replicate polls (.read (regAddr .status) .four) ++ [.block, .read (regAddr .status) .four]
  | .clr => [.write (regAddr .status) .four 0x6#32]

end Sys2Proof.Machine
end

