-- ==== Sys2Proof/Tests/Slice0.lean ====
section
/-! SUPPORT. Tests. Their expected results are those of 95_test_vectors.md (the vector is named), or written out by hand
from the rule that is named. The second half shows, for each obligation with hypotheses, states and operands that meet
them all. -/

namespace Sys2Proof.Tests

open Sys2Proof Sys2Proof.Machine

-- The theorems are checked one after another: hundreds of small kernel evaluations at once need too many threads.
set_option Elab.async false

/-! ### Helpers -/

/-- Bytes from numbers. -/
def bytes (l : List Nat) : Bytes := l.map (BitVec.ofNat 8)

/-- The state after reset with input, unit size and extension placed. -/
def given (src : List Nat) (u : Word := 1) (ext : List Nat := []) : State :=
  { State.reset with
    src := Memory.ofBytesAt 0 (bytes src), srcLen := BitVec.ofNat 32 src.length, unitSize := u,
    ext := Memory.ofBytesAt 0 (bytes ext), extLen := BitVec.ofNat 32 ext.length }

/-- `given`, with the capacities SRC 4, DST 4, EXT 2. -/
def tiny (src : List Nat) (u : Word := 1) (ext : List Nat := []) : State :=
  { given src u ext with params := ⟨4, 4, 2⟩ }

/-- The outcome is a next state with property `p`. -/
def next (p : State → Bool) : Host.Outcome State Fault Refusal → Bool
  | .next t => p t
  | .fault _ => false
  | .refused _ => false

/-- DST[0..DST_LEN) is `out`, without an error. -/
def delivers (out : List Nat) : Host.Outcome State Fault Refusal → Bool :=
  next fun t => t.dst == Memory.ofBytesAt 0 (bytes out) && t.dstLen == BitVec.ofNat 32 out.length && t.errcode == 0

/-- ERRCODE is `e` and DST_LEN is 0. -/
def fails (e : Word) : Host.Outcome State Fault Refusal → Bool :=
  next fun t => t.errcode == e && t.dstLen == 0 && t.err && t.done

/-- The tree of "hello" (HT1). -/
def helloTree : CodeTree :=
  .node 5 (.leaf 0x6C#8) (.node 3 (.node 2 (.leaf 0x68#8) (.leaf 0x65#8)) (.leaf 0x6F#8))

/-- A tree of `n` Nodes, each with a leaf to the left: 2n + 1 nodes, depth n. -/
def comb : Nat → CodeTree
  | 0 => .leaf 0x42#8
  | n + 1 => .node 7 (.leaf 0x41#8) (comb n)

/-- SEQ = BUSY with a CMD word and the events to come. -/
def running (cmd : Word) (events : List Event) : State := { State.reset with seq := .busy, cmd := cmd, events := events }

/-! ### Well-formedness: each check refuses an ill-formed term -/

theorem test_wellFormed_accepts : wellFormedWord 0x131#32 = true := by decide
theorem test_wellFormed_refuses_opcode : wellFormedWord 0x003#32 = false := by decide
theorem test_wellFormed_refuses_reserved_bit : wellFormedWord 0x401#32 = false := by decide
theorem test_legalOpcode_refuses_neighbours :
    ([0x00#8, 0x03#8, 0x0F#8, 0x16#8, 0x1F#8, 0x24#8, 0x2F#8, 0x32#8, 0xFF#8].any legalOpcode) = false := by decide
theorem test_params_legal : Config.vectorParams.legal = true ∧ Params.legal ⟨1, 1, 0⟩ = true := by decide
theorem test_params_refuse_srcCap : Params.legal ⟨0, 1, 0⟩ = false ∧ Params.legal ⟨2 ^ 24 + 1, 1, 0⟩ = false := by decide
theorem test_params_refuse_dstCap : Params.legal ⟨1, 0, 0⟩ = false ∧ Params.legal ⟨1, 2 ^ 24 + 1, 0⟩ = false := by decide
theorem test_params_refuse_extCap : Params.legal ⟨1, 1, 257⟩ = false := by decide

/-! ### Decoding: words written out bit by bit from R90 and R92 (reserved, METHOD, OPCODE) -/

theorem test_decode_packer :
    decode 0b0000000000000000000000_00_00000001#32 = .ok (.pack 0) ∧
      decode 0b0000000000000000000000_11_00000010#32 = .ok (.unpack 3) := by decide
theorem test_decode_tree :
    decode 0b0000000000000000000000_00_00010000#32 = .ok (.hufBuild 0) ∧
      decode 0b0000000000000000000000_01_00010001#32 = .ok (.hufCodes 1) ∧
      decode 0b0000000000000000000000_00_00010010#32 = .ok (.hufSerialize 0) ∧
      decode 0b0000000000000000000000_10_00010011#32 = .ok (.hufDeserialize 2) := by decide
theorem test_decode_huffman :
    decode 0b0000000000000000000000_00_00010100#32 = .ok (.hufEncode 0) ∧
      decode 0b0000000000000000000000_00_00010101#32 = .ok (.hufDecode 0) := by decide
theorem test_decode_rle :
    decode 0b0000000000000000000000_00_00100000#32 = .ok (.rleEncodeChunk 0) ∧
      decode 0b0000000000000000000000_00_00100001#32 = .ok (.rleDecodeChunk 0) ∧
      decode 0b0000000000000000000000_00_00100010#32 = .ok (.rleEncode 0) ∧
      decode 0b0000000000000000000000_00_00100011#32 = .ok (.rleDecode 0) := by decide
theorem test_decode_engine :
    decode 0b0000000000000000000000_01_00110000#32 = .ok (.compress 1) ∧
      decode 0b0000000000000000000000_00_00110001#32 = .ok (.extract 0) ∧
      decode 0b0000000000000000000000_00_00110010#32 = .error (.illegalOpcode 0x32#8) := by decide
theorem test_decodeTableWord : decodeTableWord 8 0x14 = some (.hufEncode 0) ∧ decodeTableWord 8 0x16 = none := by decide
theorem test_withFetchWord_runs_the_word :
    next (fun t => t.dst == [(0, 0x30#8)] && t.done) (step (State.reset.withFetchWord 8 0x01)) = true := by decide

/-! ### Error words (the table of R252) -/

theorem test_cause_words :
    [Cause.cfgUnitSize, .cfgMethod, .cfgExt, .cfgChunkLen, .fmtPad, .fmtBitSymbol, .fmtTreeTruncated, .fmtTreeToken,
      .fmtTreeTrailing, .fmtTreeLeafRoot, .fmtTreeEmpty, .fmtBitsTruncated, .fmtHeaderLines, .fmtTag, .fmtNumber,
      .fmtRleLiterals, .capSrc, .capDst, .capTree, .capExt, .cmdIllegal].map Cause.word =
    [0x101, 0x102, 0x103, 0x104, 0x210, 0x211, 0x212, 0x213, 0x214, 0x215, 0x216, 0x218, 0x219, 0x21A, 0x21B, 0x21C,
      0x320, 0x321, 0x322, 0x323, 0x430] := by decide

/-! ### Commands, one step each -/

/-- BP2 -/
theorem test_pack :
    delivers [0xB3, 0x80, 0x37] (exec (.pack 0) (given [0x31, 0x30, 0x31, 0x31, 0x30, 0x30, 0x31, 0x31, 0x31])) = true := by
  decide
/-- BP6 -/
theorem test_pack_symbol : fails 0x211 (exec (.pack 0) (given [0x31, 0x30, 0x61])) = true := by decide
/-- BP12 -/
theorem test_unpack :
    delivers [0x31, 0x30, 0x31, 0x31, 0x30, 0x30, 0x31, 0x31, 0x31] (exec (.unpack 0) (given [0xB3, 0x8F, 0x37])) = true := by
  decide
/-- BP14 -/
theorem test_unpack_pad : fails 0x210 (exec (.unpack 0) (given [0xFF, 0x38])) = true := by decide
/-- HT1 -/
theorem test_hufBuild :
    next (fun t => t.tree == some helloTree && t.nleaf == 4 && t.freq[0x6C] == 2 && t.freq[0x41] == 0 &&
      t.statusWord == 0x1A) (exec (.hufBuild 0) (given [0x68, 0x65, 0x6C, 0x6C, 0x6F])) = true := by decide +kernel
/-- HT2 -/
theorem test_hufBuild_empty :
    next (fun t => t.tree == none && t.statusWord == 0x0A) (exec (.hufBuild 0) (given [])) = true := by decide
/-- HT5 -/
theorem test_hufCodes :
    next (fun t => t.codeLen[0x68] == 3 && t.codeBits[0x68] == 1 && t.codeLen[0x65] == 3 && t.codeBits[0x65] == 5 &&
      t.codeLen[0x6F] == 2 && t.codeBits[0x6F] == 3 && t.codeLen[0x6C] == 1 && t.codeLen[0x41] == 0)
      (exec (.hufCodes 0) { State.reset with tree := some helloTree }) = true := by decide +kernel
/-- HT7, EN29 -/
theorem test_hufCodes_empty : fails 0x216 (exec (.hufCodes 0) { State.reset with srcLen := 65537 }) = true := by decide
/-- HT10 -/
theorem test_hufSerialize :
    delivers [0x35, 0x2C, 0x6C, 0x6C, 0x2C, 0x33, 0x2C, 0x32, 0x2C, 0x68, 0x6C, 0x2C, 0x65, 0x6C, 0x2C, 0x6F, 0x6C, 0x2C]
      (exec (.hufSerialize 0) { State.reset with tree := some helloTree }) = true := by decide +kernel
/-- HT14 -/
theorem test_hufDeserialize :
    next (fun t => t.tree == some (.node 3 (.leaf 0x2C#8) (.leaf 0x61#8)) && t.nleaf == 2)
      (exec (.hufDeserialize 0) (given [0x33, 0x2C, 0x2C, 0x6C, 0x2C, 0x61, 0x6C, 0x2C])) = true := by decide +kernel
/-- HT18 -/
theorem test_hufDeserialize_leaf : fails 0x215 (exec (.hufDeserialize 0) (given [0x41, 0x6C, 0x2C])) = true := by decide +kernel
/-- HC1 -/
theorem test_hufEncode :
    delivers [0x35, 0x2C, 0x6C, 0x6C, 0x2C, 0x33, 0x2C, 0x32, 0x2C, 0x68, 0x6C, 0x2C, 0x65, 0x6C, 0x2C, 0x6F, 0x6C, 0x2C,
      0x0D, 0x0A, 0x94, 0xC0, 0x36] (exec (.hufEncode 0) (given [0x68, 0x65, 0x6C, 0x6C, 0x6F])) = true := by decide +kernel
/-- HC15 -/
theorem test_hufDecode :
    delivers [0x62, 0x61, 0x62]
      (exec (.hufDecode 0) (given [0x32, 0x2C, 0x61, 0x6C, 0x2C, 0x62, 0x6C, 0x2C, 0x0D, 0x0A, 0xA0, 0x35])) = true := by
  decide +kernel
/-- HC17 -/
theorem test_hufDecode_empty_tree : fails 0x216 (exec (.hufDecode 0) (given [0x0D, 0x0A, 0x30])) = true := by decide +kernel
/-- RL1 -/
theorem test_rleEncodeChunk :
    delivers [0x34, 0x2C, 0x33, 0x0D, 0x0A, 0x41, 0x42]
      (exec (.rleEncodeChunk 0) (given [0x41, 0x41, 0x41, 0x41, 0x42, 0x42, 0x42])) = true := by decide +kernel
/-- RL2 -/
theorem test_rleEncodeChunk_empty : delivers [0x31, 0x0D, 0x0A] (exec (.rleEncodeChunk 0) (given [])) = true := by
  decide +kernel
/-- RL8 -/
theorem test_rleDecodeChunk_stops_early :
    delivers [0x41, 0x41, 0x41] (exec (.rleDecodeChunk 0) (given [0x33, 0x2C, 0x32, 0x0D, 0x0A, 0x41])) = true := by
  decide +kernel
/-- RL9 -/
theorem test_rleDecodeChunk_literals :
    fails 0x21C (exec (.rleDecodeChunk 0) (given [0x31, 0x0D, 0x0A, 0x41, 0x42])) = true := by decide +kernel
/-- RL15 -/
theorem test_rleEncode :
    delivers [0x32, 0x0D, 0x0A, 0x33, 0x2C, 0x31, 0x0D, 0x0A, 0x61, 0x62, 0x63]
      (exec (.rleEncode 0) (given [0x61, 0x62, 0x61, 0x62, 0x61, 0x62, 0x63] 2)) = true := by decide +kernel
/-- RL23 -/
theorem test_rleDecode :
    delivers [0x61, 0x62, 0x61, 0x62, 0x61, 0x62, 0x63]
      (exec (.rleDecode 0) (given [0x32, 0x0D, 0x0A, 0x33, 0x2C, 0x31, 0x0D, 0x0A, 0x61, 0x62, 0x63] 7)) = true := by
  decide +kernel
/-- RL33 -/
theorem test_rleDecode_too_long :
    fails 0x321 (exec (.rleDecode 0) (given [0x31, 0x0D, 0x0A, 0x39, 0x39, 0x39, 0x39, 0x39, 0x39, 0x39, 0x39, 0x39,
      0x0D, 0x0A, 0x41])) = true := by decide +kernel
/-- EN2 -/
theorem test_compress :
    next (fun t => t.efficiency == 0xFFFFFFF4 && t.nruns == 2 && t.dst == Memory.ofBytesAt 0 (bytes [0x52, 0x4C, 0x45,
      0x2C, 0x74, 0x78, 0x74, 0x0D, 0x0A, 0x31, 0x0D, 0x0A, 0x34, 0x2C, 0x33, 0x0D, 0x0A, 0x41, 0x42]))
      (exec (.compress 0) (given [0x41, 0x41, 0x41, 0x41, 0x42, 0x42, 0x42] 1 [0x74, 0x78, 0x74])) = true := by
  decide +kernel
/-- EN5 -/
theorem test_compress_huf :
    delivers [0x48, 0x55, 0x46, 0x2C, 0x0D, 0x0A, 0x32, 0x2C, 0x41, 0x6C, 0x2C, 0x41, 0x6C, 0x2C, 0x0D, 0x0A, 0x80, 0x37]
      (exec (.compress 1) (given [0x41] 0)) = true := by decide +kernel
/-- EN22 -/
theorem test_extract_lone_cr :
    next (fun t => t.ext == [(0, 0x61#8), (1, 0x0D#8), (2, 0x62#8)] && t.extLen == 3 && t.errcode == 0)
      (exec (.extract 0) (given [0x52, 0x4C, 0x45, 0x2C, 0x61, 0x0D, 0x62, 0x0D, 0x0A, 0x31, 0x0D, 0x0A, 0x0D, 0x0A])) = true := by
  decide +kernel
/-- EN18 -/
theorem test_extract_no_comma :
    fails 0x21A (exec (.extract 0) (given [0x52, 0x4C, 0x45, 0x0D, 0x0A, 0x31, 0x0D, 0x0A, 0x0D, 0x0A])) = true := by
  decide +kernel

/-! ### The bus, one step each -/

/-- BS1 -/
theorem test_read_id :
    next (fun t => t.lastResp == some (.read 0x48430007 .okay))
      (step { State.reset with events := [.read 0 .four] }) = true := by decide
/-- BS4, BS5 -/
theorem test_refused :
    [State.reset.locate 0x34 .four, State.reset.locate 0x02 .two, State.reset.locate 0x05 .four,
      State.reset.locate 0x1000001 .four, State.reset.locate 0x1010000 .one, State.reset.locate 0x4100 .one].all
      Option.isNone = true := by decide
/-- BS7 -/
theorem test_write_little_endian :
    next (fun t => t.src == [(0, 0x41#8), (1, 0x42#8), (2, 0x43#8), (3, 0x44#8)])
      (step { State.reset with events := [.write 0x1000000 .four 0x44434241] }) = true := by decide
/-- BS20 -/
theorem test_write_cmd :
    next (fun t => t.cmd == 0x3FF) (step { State.reset with events := [.write 0x0C .four 0xFFFFFFFF] }) = true := by decide
/-- BS16 -/
theorem test_write_status_ro :
    next (fun t => t.statusWord == 0x0A) (step { State.reset with
      done := true, freqValid := true, events := [.write 0x08 .four 0x39] }) = true := by decide
/-- BS13 -/
theorem test_start :
    next (fun t => t.statusWord == 1 && t.ctrlWord == 2)
      (step { State.reset with done := true, err := true, errcode := 0x211, events := [.write 0x04 .four 3] }) = true := by
  decide
/-- BS19 -/
theorem test_soft_reset_abandons :
    next (fun t => t.seq == .idle && !t.done && t.cmd == 0) (step (running 0x01 [.write 0x04 .four 4])) = true := by decide
/-- R290, 93_implementation_defined.md items 1 and 4: no byte of DST keeps a specified content after HUF_CODES, whether it
fails or not; R235: after an illegal OPCODE it does. -/
theorem test_dst_after_a_command :
    next (fun t => t.dst == []) (exec (.hufCodes 0) { State.reset with dst := [(0, 1)] }) = true ∧
      next (fun t => t.dst == []) (exec (.hufCodes 0) { State.reset with dst := [(0, 1)], tree := some (comb 1) }) = true ∧
      next (fun t => t.dst == [(0, 1)]) (step { running 0x00 [] with dst := [(0, 1)] }) = true := by decide +kernel
/-- R99: `run COMPRESS, METHOD=1` with IE set, as P1 writes it. -/
theorem test_script_run :
    (Stmt.run (.compress 1)).events true = [.write 0x0C .four 0x130, .write 0x04 .four 3] := by decide

/-! ### Witnesses: states and operands that meet the hypotheses of the obligations -/

/-- EncodeInvertsDecode -/
theorem witness_encodeInvertsDecode :
    wellFormedWord 0x331#32 = true ∧ legalOpcode ((0x016#32).extractLsb' 0 8) = false := by decide
/-- StepRunsDecodedCommand: each of its clauses. -/
theorem witness_stepRuns :
    ((running 0x130 []).seq = .busy ∧ decode (running 0x130 []).cmd = .ok (.compress 1) ∧ (running 0x130 []).events = []) ∧
      (decode (running 0x01 [.block]).cmd = .ok (.pack 0) ∧ (running 0x01 [.block]).events = .block :: []) ∧
      (State.reset.seq = .idle ∧ State.reset.events = []) ∧
      ({ State.reset with events := [.block] } : State).events = .block :: [] := by decide
/-- IllegalOpcodeEndsInCommandError, SRC_LEN being anything: with no event left, and with `.block`. -/
theorem witness_illegal :
    (running 0x32 []).seq = .busy ∧ (running 0x32 []).events = [] ∧
      legalOpcode ((running 0x32 []).cmd.extractLsb' 0 8) = false ∧
      (running 0x00 [.block]).seq = .busy ∧ (running 0x00 [.block]).events = .block :: [] ∧
      legalOpcode ((running 0x00 [.block]).cmd.extractLsb' 0 8) = false := by decide
/-- PackWritesPackedBits: an output of exactly DST_CAP bytes, and the empty input. -/
theorem witness_pack :
    ((tiny [0x31, 0x30, 0x31]).params.legal = true ∧ (tiny [0x31, 0x30, 0x31]).srcLen.toNat ≤ (tiny []).params.srcCap ∧
      3 = (tiny [0x31, 0x30, 0x31]).srcLen.toNat ∧ (∀ b ∈ (tiny [0x31, 0x30, 0x31]).input, b = 0x30#8 ∨ b = 0x31#8) ∧
      (3 + 7) / 8 + 1 ≤ (tiny [0x31, 0x30, 0x31]).params.dstCap) ∧
      ({ tiny [] with params := ⟨4, 1, 2⟩ } : State).params.legal = true ∧
      (∀ b ∈ (tiny []).input, b = 0x30#8 ∨ b = 0x31#8) ∧ (0 + 7) / 8 + 1 = 1 := by decide
/-- UnpackWritesBitSymbols: the pad counts 7 and 0; with pad 4 the output has exactly DST_CAP symbols. -/
theorem witness_unpack :
    ((tiny [0xFF, 0x34]).params.legal = true ∧ (tiny [0xFF, 0x34]).srcLen.toNat ≤ 4 ∧
      (tiny [0xFF, 0x34]).input = [0xFF#8] ++ [0x30#8 + BitVec.ofNat 8 4] ∧ 4 ≤ 8 * [0xFF#8].length ∧
      8 * [0xFF#8].length - 4 ≤ (tiny [0xFF, 0x34]).params.dstCap) ∧
      (tiny [0xFF, 0x37]).input = [0xFF#8] ++ [0x30#8 + BitVec.ofNat 8 7] ∧
      (tiny [0x30]).input = [] ++ [0x30#8 + BitVec.ofNat 8 0] := by decide
/-- BitPackerFormatErrors: each of its cases at a boundary, an output one byte longer than DST_CAP among them. -/
theorem witness_packer_errors :
    ((given [0x31, 0x32]).srcLen.toNat ≤ (given [0x31, 0x32]).params.srcCap ∧
      ∃ b ∈ (given [0x31, 0x32]).input, b ≠ 0x30#8 ∧ b ≠ 0x31#8) ∧
      (given []).input = [] ∧ ((given [0xFF, 0x2F]).input = [0xFF#8] ++ [0x2F#8] ∧ 0x2F#8 < 0x30#8) ∧
      ((given [0xFF, 0x38]).input = [0xFF#8] ++ [0x38#8] ∧ 0x37#8 < 0x38#8) ∧
      ((given [0x31]).input = [0x31#8] ∧ 0x30#8 < 0x31#8) ∧
      (({ given [0x31] with params := ⟨1, 1, 0⟩ } : State).srcLen.toNat ≤ 1 ∧
        (∀ b ∈ ({ given [0x31] with params := ⟨1, 1, 0⟩ } : State).input, b = 0x30#8 ∨ b = 0x31#8) ∧
        1 < (({ given [0x31] with params := ⟨1, 1, 0⟩ } : State).srcLen.toNat + 7) / 8 + 1) ∧
      (tiny [0xFF, 0x33]).srcLen.toNat ≤ 4 ∧
      unpackBits (tiny [0xFF, 0x33]).input = .ok ([true, true, true, true, true], 3) ∧
      (tiny []).params.dstCap < [true, true, true, true, true].length := by decide
/-- HufBuildCountsAndBuilds, with an input and without one. -/
theorem witness_hufBuild :
    ((given [0x41, 0x42]).params.legal = true ∧ (given [0x41, 0x42]).srcLen.toNat ≤ (given [0x41, 0x42]).params.srcCap) ∧
      (given []).srcLen.toNat ≤ (given []).params.srcCap := by decide
/-- BuiltTreeInvariants, CodesArePrefixFreePaths (first clause), with two distinct bytes, the fewest. -/
theorem witness_built :
    (bytes [0x41, 0x42]).length < 2 ^ 32 ∧ 2 ≤ (bytes [0x41, 0x42]).dedup.length ∧
      buildTree (bytes [0x41, 0x42]) = some (.node 2 (.leaf 0x41#8) (.leaf 0x42#8)) ∧ 0x41#8 ∈ bytes [0x41, 0x42] ∧
      (0x41#8 : Byte) ≠ 0x42#8 ∧ deriveCodes (.node 2 (.leaf 0x41#8) (.leaf 0x42#8)) 0x41#8 = some [false] ∧
      deriveCodes (.node 2 (.leaf 0x41#8) (.leaf 0x42#8)) 0x42#8 = some [true] := by decide +kernel
/-- DegenerateTreeOfOneByte: one occurrence, the fewest. -/
theorem witness_degenerate : 1 ≤ (1 : Nat) := by decide
/-- CodesArePrefixFreePaths (second clause), DeserializeInvertsSerialize, HufCodesWritesRightmostPaths: the largest tree. -/
theorem witness_largest_tree :
    (comb 255).isNode = true ∧ (comb 255).size = 511 ∧ ((deriveCodes (comb 255) 0x42#8).getD []).length = 255 ∧
      ({ State.reset with tree := some (comb 255) } : State).tree = some (comb 255) ∧ 0x42#8 ∈ (comb 255).leaves ∧
      0x43#8 ∉ (comb 255).leaves := by decide +kernel
/-- HufCodesWritesRightmostPaths: two paths to one byte, the later one to the right. -/
theorem witness_two_paths :
    (comb 2).follow [false] = some (.leaf 0x41#8) ∧ (comb 2).follow [true, false] = some (.leaf 0x41#8) := by decide
/-- HufSerializeWritesStream: a stream of exactly DST_CAP bytes, and no tree. -/
theorem witness_serialize :
    ({ State.reset with params := ⟨1, 8, 0⟩, tree := some (comb 1) } : State).params.legal = true ∧
      (serializeTree (some (comb 1))).length = 8 ∧ (serializeTree none).length ≤ 8 := by decide +kernel
/-- HufDeserializeLoadsTree -/
theorem witness_deserialize :
    (given [0x32, 0x2C, 0x62, 0x6C, 0x2C, 0x61, 0x6C, 0x2C]).srcLen.toNat ≤ 65536 ∧
      deserialize (given [0x32, 0x2C, 0x62, 0x6C, 0x2C, 0x61, 0x6C, 0x2C]).input =
        .ok (.node 2 (.leaf 0x62#8) (.leaf 0x61#8)) := by decide +kernel
/-- TreeCommandErrors: no tree; a stream one byte longer than DST_CAP; each error of the parser but CAP_TREE. -/
theorem witness_tree_errors :
    State.reset.tree = none ∧
      ({ State.reset with params := ⟨1, 7, 0⟩, tree := some (comb 1) } : State).params.dstCap <
        (serializeTree (some (comb 1))).length ∧
      deserialize (given []).input = .error .fmtTreeTruncated ∧
      deserialize (given [0x78, 0x2C]).input = .error .fmtTreeToken ∧
      deserialize (given [0x41, 0x6C, 0x2C, 0x78]).input = .error .fmtTreeTrailing ∧
      deserialize (given [0x41, 0x6C, 0x2C]).input = .error .fmtTreeLeafRoot := by decide +kernel
/-- TreeCommandErrors: one node more than NODE_CAP. -/
theorem witness_capTree :
    deserialize ((List.replicate 512 [0x31#8, 0x2C#8]).flatten) = .error .capTree := by decide +kernel
/-- TreeCommandErrors: a HUF_ENCODE body one byte longer than DST_CAP. -/
theorem witness_hufEncode_capDst :
    ({ given [0x41] with params := ⟨1, 11, 0⟩ } : State).srcLen.toNat ≤ 1 ∧
      11 < (hufEncodeBody ({ given [0x41] with params := ⟨1, 11, 0⟩ } : State).input).1.length := by decide +kernel
/-- HufEncodeWritesBodyAndTables: a body of exactly DST_CAP bytes; the empty input. -/
theorem witness_hufEncode :
    ({ given [0x41] with params := ⟨1, 12, 0⟩ } : State).params.legal = true ∧
      ({ given [0x41] with params := ⟨1, 12, 0⟩ } : State).srcLen.toNat ≤ 1 ∧
      (hufEncodeBody ({ given [0x41] with params := ⟨1, 12, 0⟩ } : State).input).1.length = 12 ∧
      (hufEncodeBody (given []).input).1.length = 2 := by decide +kernel
/-- HufDecodeWritesDataAndTree: a body with data, and the body without a payload. -/
theorem witness_hufDecode :
    ((given [0x32, 0x2C, 0x61, 0x6C, 0x2C, 0x62, 0x6C, 0x2C, 0x0D, 0x0A, 0xA0, 0x35]).params.legal = true ∧
      (given [0x32, 0x2C, 0x61, 0x6C, 0x2C, 0x62, 0x6C, 0x2C, 0x0D, 0x0A, 0xA0, 0x35]).srcLen.toNat ≤
        (given []).params.srcCap ∧
      hufDecodeBody (given [0x32, 0x2C, 0x61, 0x6C, 0x2C, 0x62, 0x6C, 0x2C, 0x0D, 0x0A, 0xA0, 0x35]).input =
        .ok (bytes [0x62, 0x61, 0x62], some (.node 2 (.leaf 0x61#8) (.leaf 0x62#8)), 5) ∧
      (bytes [0x62, 0x61, 0x62]).length ≤ (given []).params.dstCap) ∧
      (given [0x0D, 0x0A]).srcLen.toNat ≤ (given [0x0D, 0x0A]).params.srcCap ∧
      hufDecodeBody (given [0x0D, 0x0A]).input = .ok ([], none, 0) := by decide +kernel
/-- HufDecodeWritesDataAndTree, its errors: no CRLF; no tree line; a tree line that does not parse; a trailer '9'; the
single bit 1 (HC22); three bytes for a DST of two. -/
theorem witness_hufDecode_errors :
    split1 (given [0x41]).input = none ∧ split1 (given [0x0D, 0x0A, 0x30]).input = some ([], [0x30#8]) ∧
      (split1 (given [0x41, 0x0D, 0x0A, 0x30]).input = some ([0x41#8], [0x30#8]) ∧
        deserialize [0x41#8] = .error .fmtTreeTruncated) ∧
      (split1 (given [0x32, 0x2C, 0x61, 0x6C, 0x2C, 0x62, 0x6C, 0x2C, 0x0D, 0x0A, 0x39]).input =
          some (bytes [0x32, 0x2C, 0x61, 0x6C, 0x2C, 0x62, 0x6C, 0x2C], [0x39#8]) ∧
        deserialize (bytes [0x32, 0x2C, 0x61, 0x6C, 0x2C, 0x62, 0x6C, 0x2C]) =
          .ok (.node 2 (.leaf 0x61#8) (.leaf 0x62#8)) ∧ [0x39#8] = [] ++ [0x39#8] ∧ 0x37#8 < 0x39#8) ∧
      (deserialize (serialize helloTree) = .ok helloTree ∧ unpackBits [0x80#8, 0x37#8] = .ok ([true], 7) ∧
        walk helloTree [true] = .error .fmtBitsTruncated ∧
        split1 (serialize helloTree ++ [0x0D#8, 0x0A#8] ++ [0x80#8, 0x37#8]) =
          some (serialize helloTree, [0x80#8, 0x37#8])) ∧
      hufDecodeBody ({ given [0x32, 0x2C, 0x61, 0x6C, 0x2C, 0x62, 0x6C, 0x2C, 0x0D, 0x0A, 0xA0, 0x35] with
          params := ⟨12, 2, 0⟩ } : State).input =
        .ok (bytes [0x62, 0x61, 0x62], some (.node 2 (.leaf 0x61#8) (.leaf 0x62#8)), 5) ∧
      2 < (bytes [0x62, 0x61, 0x62]).length := by decide +kernel
/-- WalkReadsPathsToLeaves, both clauses. -/
theorem witness_walk :
    helloTree.isNode = true ∧ (∀ x ∈ [([true, true], 0x6F#8), ([false], 0x6C#8)], helloTree.follow x.1 = some (.leaf x.2)) ∧
      [true, false] ≠ [] ∧ helloTree.follow [true, false] = some (.node 2 (.leaf 0x68#8) (.leaf 0x65#8)) := by decide
/-- HufDecodeInvertsEncode, RunCountsAreBounded, RleDecodeInvertsEncode: the empty data; the least and the greatest unit
size. -/
theorem witness_round_trips : ([] : Bytes).length ≤ 2 ^ 24 ∧ 1 ≤ (1 : Nat) ∧ 1 ≤ 2 ^ 32 - 1 ∧ 2 ^ 32 - 1 < 2 ^ 32 := by
  decide
/-- ChunkRunsAreExactAndMaximal: a unit size of the chunk's length, and one less. -/
theorem witness_chunk :
    ((bytes [1, 2]).length ≤ 1000 ∧ (bytes [1, 2]).length ≤ 2) ∧ 1 < (bytes [1, 2]).length := by decide
/-- RleEncodeChunkWritesChunkBody, RleEncodeWritesBody: outputs of exactly DST_CAP bytes. -/
theorem witness_rleEncode :
    (tiny [0x41]).params.legal = true ∧ (tiny [0x41]).srcLen.toNat ≤ (tiny [0x41]).params.srcCap ∧
      (tiny [0x41]).unitSize ≠ 0 ∧ (tiny [0x41]).srcLen.toNat ≤ 1000 ∧
      (countsLine ((encodeChunk (tiny [0x41]).input 1).map Prod.fst) ++ [0x0D#8, 0x0A#8] ++
        (encodeChunk (tiny [0x41]).input 1).flatMap Prod.snd).length = (tiny [0x41]).params.dstCap ∧
      ({ given [0x41] with params := ⟨1, 7, 0⟩ } : State).params.legal = true ∧
      rleRuns ({ given [0x41] with params := ⟨1, 7, 0⟩ } : State).input 1 = [(1, [0x41#8])] ∧
      (dec 1 ++ [0x0D#8, 0x0A#8] ++ countsLine [1] ++ [0x0D#8, 0x0A#8] ++ [0x41#8]).length = 7 := by decide +kernel
/-- RleDecodeChunkWritesExpansion -/
theorem witness_rleDecodeChunk :
    (tiny [0x34, 0x0D, 0x0A, 0x41]).params.legal = true ∧
      (tiny [0x34, 0x0D, 0x0A, 0x41]).srcLen.toNat ≤ (tiny []).params.srcCap ∧
      (tiny [0x34, 0x0D, 0x0A, 0x41]).unitSize ≠ 0 ∧
      split1 (tiny [0x34, 0x0D, 0x0A, 0x41]).input = some ([0x34#8], [0x41#8]) ∧ parseCounts [0x34#8] = .ok [4] ∧
      replay 1 [4] 1000 [0x41#8] = .ok [(4, [0x41#8])] ∧
      (expandRuns [(4, [0x41#8])]).length ≤ (tiny []).params.dstCap := by decide +kernel
/-- RleDecodeWritesExpansion -/
theorem witness_rleDecode :
    (given [0x31, 0x0D, 0x0A, 0x33, 0x0D, 0x0A, 0x41]).params.legal = true ∧
      (given [0x31, 0x0D, 0x0A, 0x33, 0x0D, 0x0A, 0x41]).srcLen.toNat ≤ (given []).params.srcCap ∧
      split1 (given [0x31, 0x0D, 0x0A, 0x33, 0x0D, 0x0A, 0x41]).input =
        some ([0x31#8], [0x33#8, 0x0D#8, 0x0A#8, 0x41#8]) ∧
      split1 [0x33#8, 0x0D#8, 0x0A#8, 0x41#8] = some ([0x33#8], [0x41#8]) ∧ num [0x31#8] 1 (2 ^ 32 - 1) = .ok 1 ∧
      parseCounts [0x33#8] = .ok [3] ∧ replay 1 [3] 1000 [0x41#8] = .ok [(3, [0x41#8])] ∧
      (expandRuns [(3, [0x41#8])]).length ≤ (given []).params.dstCap := by decide +kernel
/-- RleCommandErrors: a unit size of 0; 1001 bytes; an output one byte longer than DST_CAP. -/
theorem witness_rle_errors :
    ((given [0x41] 0).unitSize = 0 ∧ (given [0x41] 0).srcLen.toNat ≤ (given []).params.srcCap) ∧
      (({ given [] with srcLen := 1001 } : State).srcLen.toNat ≤ (given []).params.srcCap ∧
        ({ given [] with srcLen := 1001 } : State).unitSize ≠ 0 ∧
        1000 < ({ given [] with srcLen := 1001 } : State).srcLen.toNat) ∧
      ({ given [0x31, 0x0D, 0x0A, 0x35, 0x0D, 0x0A, 0x41] with params := ⟨7, 4, 0⟩ } : State).srcLen.toNat ≤ 7 ∧
      rleDecodeBody ({ given [0x31, 0x0D, 0x0A, 0x35, 0x0D, 0x0A, 0x41] with params := ⟨7, 4, 0⟩ } : State).input =
        .ok ([(5, [0x41#8])], 1) ∧ 4 < (expandRuns [(5, [0x41#8])]).length := by decide +kernel
/-- RleCommandErrors, CAP_DST of the other three commands: outputs one byte longer than DST_CAP. -/
theorem witness_rle_capDst :
    (({ given [0x41] with params := ⟨1, 3, 0⟩ } : State).srcLen.toNat ≤ 1 ∧
      ({ given [0x41] with params := ⟨1, 3, 0⟩ } : State).unitSize ≠ 0 ∧
      3 < (chunkBody (encodeChunk ({ given [0x41] with params := ⟨1, 3, 0⟩ } : State).input 1)).length ∧
      3 < (rleEncodeBody ({ given [0x41] with params := ⟨1, 3, 0⟩ } : State).input 1).length) ∧
      split1 (tiny [0x35, 0x0D, 0x0A, 0x41]).input = some ([0x35#8], [0x41#8]) ∧ parseCounts [0x35#8] = .ok [5] ∧
      replay 1 [5] 1000 [0x41#8] = .ok [(5, [0x41#8])] ∧
      (tiny []).params.dstCap < (expandRuns [(5, [0x41#8])]).length := by decide +kernel
/-- RleCommandErrors, the formats: no CRLF; one CRLF where two are asked; a count 0 and an empty unit size; a literal left
over. -/
theorem witness_rle_formats :
    split1 (given [0x31]).input = none ∧
      (split1 (given [0x31, 0x0D, 0x0A, 0x41]).input = some ([0x31#8], [0x41#8]) ∧ split1 [0x41#8] = none) ∧
      (split1 (given [0x30, 0x0D, 0x0A, 0x41]).input = some ([0x30#8], [0x41#8]) ∧ [0x30#8] ≠ [] ∧
        [0x30#8] ∈ splitCommas [0x30#8] ∧ val [0x30#8] < 1) ∧
      (split1 (given [0x0D, 0x0A, 0x31, 0x0D, 0x0A, 0x41]).input = some ([], [0x31#8, 0x0D#8, 0x0A#8, 0x41#8]) ∧
        split1 [0x31#8, 0x0D#8, 0x0A#8, 0x41#8] = some ([0x31#8], [0x41#8])) ∧
      (split1 (given [0x31, 0x0D, 0x0A, 0x41, 0x42]).input = some ([0x31#8], [0x41#8, 0x42#8]) ∧
        parseCounts [0x31#8] = .ok [1] ∧ replay 1 [1] 1000 [0x41#8, 0x42#8] = .error .fmtRleLiterals) ∧
      num [0x31#8] 1 (2 ^ 32 - 1) = .ok 1 := by decide +kernel
/-- CompressConfigErrors, CAP_DST: artifacts longer than DST_CAP. -/
theorem witness_compress_capDst :
    (tiny [0x41] 1 [0x61]).srcLen.toNat ≤ 4 ∧ (tiny [0x41] 1 [0x61]).extLen.toNat ≤ 2 ∧
      (∀ b ∈ (tiny [0x41] 1 [0x61]).bufBytes .ext 0 1, b ≠ 0x0D#8 ∧ b ≠ 0x0A#8) ∧ (tiny [0x41] 1 [0x61]).unitSize ≠ 0 ∧
      4 < (compressRle (tiny [0x41] 1 [0x61]).input 1 [0x61#8]).length ∧
      4 < (compressHuf (tiny [0x41] 1 [0x61]).input [0x61#8]).length := by decide +kernel
/-- CompressRleWritesArtifact, CompressHufWritesArtifact: EXT_LEN = EXT_CAP, and for the second an
output of exactly DST_CAP bytes. -/
theorem witness_compress :
    ({ given [0x41] 1 [0x61] with params := ⟨1, 19, 1⟩ } : State).params.legal = true ∧
      ({ given [0x41] 1 [0x61] with params := ⟨1, 19, 1⟩ } : State).srcLen.toNat ≤ 1 ∧
      (given [0x41] 1 [0x61]).unitSize ≠ 0 ∧
      ({ given [0x41] 1 [0x61] with params := ⟨1, 19, 1⟩ } : State).extLen.toNat ≤ 1 ∧
      (∀ b ∈ ({ given [0x41] 1 [0x61] with params := ⟨1, 19, 1⟩ } : State).bufBytes .ext 0 1, b ≠ 0x0D#8 ∧ b ≠ 0x0A#8) ∧
      ([0x52#8, 0x4C#8, 0x45#8, 0x2C#8] ++ [0x61#8] ++ [0x0D#8, 0x0A#8] ++
        rleEncodeBody ({ given [0x41] 1 [0x61] with params := ⟨1, 19, 1⟩ } : State).input 1).length ≤ 19 ∧
      ([0x48#8, 0x55#8, 0x46#8, 0x2C#8] ++ [0x61#8] ++ [0x0D#8, 0x0A#8] ++
        (hufEncodeBody ({ given [0x41] 1 [0x61] with params := ⟨1, 19, 1⟩ } : State).input).1).length = 19 := by
  decide +kernel
/-- ExtractRleWritesDataAndExtension, ExtractHufWritesDataAndExtension: an extension of two bytes, and an empty one. -/
theorem witness_extract :
    ((given [0x52, 0x4C, 0x45, 0x2C, 0x61, 0x62, 0x0D, 0x0A, 0x31, 0x0D, 0x0A, 0x0D, 0x0A]).params.legal = true ∧
      (given [0x52, 0x4C, 0x45, 0x2C, 0x61, 0x62, 0x0D, 0x0A, 0x31, 0x0D, 0x0A, 0x0D, 0x0A]).srcLen.toNat ≤ 65536 ∧
      (given [0x52, 0x4C, 0x45, 0x2C, 0x61, 0x62, 0x0D, 0x0A, 0x31, 0x0D, 0x0A, 0x0D, 0x0A]).input =
        [0x52#8, 0x4C#8, 0x45#8, 0x2C#8] ++ [0x61#8, 0x62#8] ++ [0x0D#8, 0x0A#8] ++ bytes [0x31, 0x0D, 0x0A, 0x0D, 0x0A] ∧
      split1 [0x61#8, 0x62#8] = none ∧ rleDecodeBody (bytes [0x31, 0x0D, 0x0A, 0x0D, 0x0A]) = .ok ([], 0) ∧
      [0x61#8, 0x62#8].length ≤ (given []).params.extCap ∧ (expandRuns []).length ≤ (given []).params.dstCap) ∧
      (given [0x48, 0x55, 0x46, 0x2C, 0x0D, 0x0A, 0x0D, 0x0A]).srcLen.toNat ≤ 65536 ∧
      (given [0x48, 0x55, 0x46, 0x2C, 0x0D, 0x0A, 0x0D, 0x0A]).input =
        [0x48#8, 0x55#8, 0x46#8, 0x2C#8] ++ [] ++ [0x0D#8, 0x0A#8] ++ bytes [0x0D, 0x0A] ∧ split1 [] = none ∧
      hufDecodeBody (bytes [0x0D, 0x0A]) = .ok ([], none, 0) := by decide +kernel
/-- CompressConfigErrors: an extension one byte too long; one with a CR; one with a LF. -/
theorem witness_compress_errors :
    ((tiny [] 0).unitSize = 0 ∧ (tiny []).srcLen.toNat ≤ 4 ∧ ((2 : BitVec 2) = 2 ∨ (2 : BitVec 2) = 3)) ∧
      (tiny []).params.extCap < (tiny [] 1 [0x61, 0x62, 0x63]).extLen.toNat ∧
      0x0D#8 ∈ (tiny [] 1 [0x0D]).bufBytes .ext 0 1 ∧ 0x0A#8 ∈ (tiny [] 1 [0x61, 0x0A]).bufBytes .ext 0 2 := by decide
/-- ExtractLineErrors: no tag; and for the tag HUF, no CRLF, no comma, a body that does not decode. -/
theorem witness_extract_errors :
    ((given [0x52, 0x4C]).input.take 3 ≠ [0x52#8, 0x4C#8, 0x45#8] ∧
      (given [0x52, 0x4C]).input.take 3 ≠ [0x48#8, 0x55#8, 0x46#8]) ∧
      ((given [0x48, 0x55, 0x46]).input.take 3 = [0x48#8, 0x55#8, 0x46#8] ∧ split1 (given [0x48, 0x55, 0x46]).input = none) ∧
      (split1 (given [0x48, 0x55, 0x46, 0x0D, 0x0A]).input = some ([0x48#8, 0x55#8, 0x46#8], []) ∧
        [0x48#8, 0x55#8, 0x46#8][3]? ≠ some 0x2C#8) ∧
      split1 (given [0x48, 0x55, 0x46, 0x2C, 0x0D, 0x0A]).input = some ([0x48#8, 0x55#8, 0x46#8, 0x2C#8], []) ∧
      [0x48#8, 0x55#8, 0x46#8, 0x2C#8][3]? = some 0x2C#8 ∧
      extractBody [0x48#8, 0x55#8, 0x46#8] [] = .error .fmtHeaderLines := by decide +kernel

/-- An RLE artifact of the extension 01 02 03 and the data "AA". -/
def longExtension : List Nat :=
  [0x52, 0x4C, 0x45, 0x2C, 1, 2, 3, 0x0D, 0x0A, 0x31, 0x0D, 0x0A, 0x32, 0x0D, 0x0A, 0x41]

/-- ExtractLineErrors: an extension one byte longer than EXT_CAP; an extension of EXT_CAP bytes, and data one byte longer
than DST_CAP. -/
theorem witness_extract_capacities :
    ({ given longExtension with params := ⟨16, 1, 2⟩ } : State).srcLen.toNat ≤ 16 ∧
      ({ given longExtension with params := ⟨16, 1, 2⟩ } : State).input.take 3 = [0x52#8, 0x4C#8, 0x45#8] ∧
      split1 ({ given longExtension with params := ⟨16, 1, 2⟩ } : State).input =
        some (bytes [0x52, 0x4C, 0x45, 0x2C, 1, 2, 3], bytes [0x31, 0x0D, 0x0A, 0x32, 0x0D, 0x0A, 0x41]) ∧
      (bytes [0x52, 0x4C, 0x45, 0x2C, 1, 2, 3])[3]? = some 0x2C#8 ∧
      extractBody [0x52#8, 0x4C#8, 0x45#8] (bytes [0x31, 0x0D, 0x0A, 0x32, 0x0D, 0x0A, 0x41]) =
        .ok (.rle [(2, [0x41#8])] 1) ∧
      2 < (bytes [0x52, 0x4C, 0x45, 0x2C, 1, 2, 3]).length - 4 ∧
      (bytes [0x52, 0x4C, 0x45, 0x2C, 1, 2, 3]).length - 4 ≤
        ({ given longExtension with params := ⟨16, 1, 3⟩ } : State).params.extCap ∧
      ({ given longExtension with params := ⟨16, 1, 3⟩ } : State).params.dstCap <
        (extractedBytes (.rle [(2, [0x41#8])] 1)).length := by decide +kernel

/-- What COMPRESS makes of "AA" with the extension "x". -/
def artifact : List Nat := [0x52, 0x4C, 0x45, 0x2C, 0x78, 0x0D, 0x0A, 0x31, 0x0D, 0x0A, 0x32, 0x0D, 0x0A, 0x41]

/-- ExtractInvertsCompress -/
theorem witness_extractInvertsCompress :
    next (fun t => t.errcode == 0 && t.dstLen == 14 && t.dst == Memory.ofBytesAt 0 (given artifact).input)
      (exec (.compress 0) (given [0x41, 0x41] 1 [0x78])) = true ∧ (given artifact).srcLen = 14 ∧
      (given artifact).params.legal = true ∧ (given [0x41, 0x41] 1 [0x78]).input.length ≤ (given artifact).params.dstCap ∧
      (given [0x41, 0x41] 1 [0x78]).extLen.toNat ≤ (given artifact).params.extCap := by decide +kernel
/-- SrcLenBeyondCapacityIsCapSrc: one byte beyond the capacity, for a command that reads SRC. -/
theorem witness_capSrc :
    readsSrc (.extract 0) = true ∧ readsSrc (.hufCodes 0) = false ∧ (tiny []).params.srcCap < (tiny [1, 2, 3, 4, 5]).srcLen.toNat := by
  decide
/-- FailureShowsNoOutput, CommandsKeepTheirOperands, for a command other than EXTRACT that fails. EveryCommandCompletes: a
BUSY state that meets the handshake. -/
theorem witness_failure :
    next (fun t => t.errcode != 0) (exec (.hufCodes 0) State.reset) = true ∧ (running 0x01 []).seq = .busy ∧
      (running 0x01 []).handshakeOk = true := by decide
/-- CompositesReadNoTables: two states that differ in TREE and NLEAF alone, and both complete; an input with the tag HUF. -/
theorem witness_composites :
    (given [0x41] : State) = { ({ given [0x41] with tree := some helloTree, nleaf := 4 } : State) with
      tree := none, nleaf := 0 } ∧
      next (fun _ => true) (exec (.hufEncode 0) (given [0x41])) = true ∧
      next (fun t => t.freqValid && t.codesValid)
        (exec (.hufEncode 0) { given [0x41] with tree := some helloTree, nleaf := 4 }) = true ∧
      (given [0x48, 0x55, 0x46, 0x2C, 0x0D, 0x0A, 0x0D, 0x0A]).srcLen.toNat ≤ 65536 ∧
      (given [0x48, 0x55, 0x46, 0x2C, 0x0D, 0x0A, 0x0D, 0x0A]).input.take 3 = [0x48#8, 0x55#8, 0x46#8] ∧
      next (fun _ => true) (exec (.extract 0) (given [0x48, 0x55, 0x46, 0x2C, 0x0D, 0x0A, 0x0D, 0x0A])) = true :=
  ⟨rfl, by decide +kernel, by decide +kernel, by decide +kernel, by decide +kernel, by decide +kernel⟩
/-- MapAdmitsExactlyItsRows: the last addresses of its rows, and the first ones beyond them. -/
theorem witness_map :
    State.reset.params.legal = true ∧
      [State.reset.locate 0x30 .four, State.reset.locate 0xBFC .four, State.reset.locate 0x3FFC .four,
        State.reset.locate 0x40FC .four, State.reset.locate 0x100FFFE .two, State.reset.locate 0x200FFFF .one].all
        Option.isSome = true ∧
      [State.reset.locate 0xC00 .four, State.reset.locate 0x1FFC .four, State.reset.locate 0x3000000 .four,
        State.reset.locate 0x100FFFF .two, State.reset.locate 0x2010000 .one, State.reset.locate 0x400 .two].all
        Option.isNone = true := by decide
/-- RefusedAccessChangesNothing: a write and a read. -/
theorem witness_refused :
    State.reset.resetIn = false ∧ State.reset.seq = .idle ∧ State.reset.locate 0x34 .four = none ∧
      ({ State.reset with events := [.write 0x34 .four 1] } : State).events = .write 0x34 .four 1 :: [] ∧
      ({ State.reset with events := [.read 0x34 .four] } : State).events = .read 0x34 .four :: [] := by decide
/-- BufferWritesAreLittleEndian: the last word of SRC, and the last byte of EXT. -/
theorem witness_bufferWrite :
    (State.reset.resetIn = false ∧ State.reset.seq = .idle ∧ State.reset.params.legal = true ∧ Buffer.src ≠ .dst ∧
      (0x100FFFC#26).toNat = bufferBase .src + 0xFFFC ∧ 0xFFFC % Size.four.bytes = 0 ∧
      0xFFFC + Size.four.bytes ≤ State.reset.capOf .src ∧
      ({ State.reset with events := [.write 0x100FFFC .four 9] } : State).events = .write 0x100FFFC#26 .four 9 :: []) ∧
      Buffer.ext ≠ .dst ∧ (0x40FF#26).toNat = bufferBase .ext + 0xFF ∧ 0xFF % Size.one.bytes = 0 ∧
      0xFF + Size.one.bytes ≤ State.reset.capOf .ext := by decide
/-- BufferReadsAreLittleEndian: the first half word of SRC. -/
theorem witness_bufferRead :
    (given [0x41, 0x42]).resetIn = false ∧ (given [0x41, 0x42]).seq = .idle ∧ (given [0x41, 0x42]).params.legal = true ∧
      (0x1000000#26).toNat = bufferBase .src + 0 ∧ 0 % Size.two.bytes = 0 ∧
      0 + Size.two.bytes ≤ (given [0x41, 0x42]).capOf .src ∧ [0x41#8, 0x42#8].length = Size.two.bytes ∧
      (∀ k, k < Size.two.bytes → ((given [0x41, 0x42]).memOf .src).byte? (0 + k) = [0x41#8, 0x42#8][k]?) ∧
      ({ given [0x41, 0x42] with events := [.read 0x1000000 .two] } : State).events = .read 0x1000000#26 .two :: [] := by
  decide
/-- ReadOnlyLocationsIgnoreWrites: NLEAF, the last word of CODE_BITS, the last byte of DST. -/
theorem witness_readOnly :
    (0x24 ≤ (0x30#26).toNat ∧ (0x30#26).toNat ≤ 0x30) ∧ ((0x3FFC#26).toNat % 4 = 0 ∧ (0x3FFC#26).toNat < 0x4000) ∧
      (0x2000000 ≤ (0x200FFFF#26).toNat ∧
        (0x200FFFF#26).toNat + Size.one.bytes ≤ 0x2000000 + State.reset.params.dstCap) := by decide
/-- RegisterWritesTakeEffect, one of its five events. -/
theorem witness_registerWrite :
    ({ State.reset with events := [.write 0x08 .four 6] } : State).events = .write 0x08#26 .four 6 :: [] ∧
      State.reset.resetIn = false ∧ State.reset.seq = .idle := by decide
/-- StartIssuesTheCommand with START and without it, SoftResetSetsResetValues: in IDLE and in BUSY. -/
theorem witness_ctrl :
    (3#32).getLsbD 0 = true ∧ (3#32).getLsbD 2 = false ∧ (7#32).getLsbD 2 = true ∧ (2#32).getLsbD 0 = false ∧
      (2#32).getLsbD 2 = false ∧ (running 0x01 [.write 0x04 .four 3]).events = .write 0x04#26 .four 3 :: [] ∧
      (running 0x01 [.write 0x04 .four 2]).events = .write 0x04#26 .four 2 :: [] ∧
      (running 0x01 []).resetIn = false ∧ (running 0x01 []).seq = .busy ∧ State.reset.seq = .idle := by decide
/-- StatusCtrlAndIrqReadTheirBits: the last register. -/
theorem witness_registerRead :
    ({ State.reset with events := [.read 0x30 .four] } : State).resetIn = false ∧
      ({ State.reset with events := [.read 0x30 .four] } : State).seq = .idle ∧
      (0x30#26, (0 : Word)) ∈ [(0x2C#26, State.reset.efficiency), (0x30#26, State.reset.nleaf)] ∧
      ({ State.reset with events := [.read 0x30 .four] } : State).events = .read 0x30#26 .four :: [] := by decide
/-- BusyIgnoresOtherAccesses: ID, CTRL, STATUS and another register. -/
theorem witness_busy :
    (running 0x01 []).locate 0x00 .four = some (.reg .id) ∧ (running 0x01 []).locate 0x04 .four = some (.reg .ctrl) ∧
      (running 0x01 []).locate 0x08 .four = some (.reg .status) ∧
      (running 0x01 []).locate 0x14 .four = some (.reg .srcLen) ∧ Loc.reg .srcLen ≠ .reg .ctrl := by decide
/-- HardwareResetAbandonsCommand: with nothing after the edge, a turn of the block, a read, a write, the release. -/
theorem witness_reset :
    (running 0x01 [.resetInput true]).events = .resetInput true :: [] ∧
      (running 0x01 [.resetInput true, .block]).events = .resetInput true :: .block :: [] ∧
      (running 0x01 [.resetInput true, .read 0 .four]).events = .resetInput true :: .read 0 .four :: [] ∧
      (running 0x01 [.resetInput true, .write 0 .four 1]).events = .resetInput true :: .write 0 .four 1 :: [] ∧
      (running 0x01 [.resetInput true, .resetInput false]).events = .resetInput true :: .resetInput false :: [] := by
  decide
/-- TableWindowsReadEntries: all its tables valid. -/
theorem witness_tables :
    ({ State.reset with freqValid := true, codesValid := true } : State).seq = .idle ∧
      ({ State.reset with freqValid := true, codesValid := true } : State).freqValid = true ∧
      ({ State.reset with freqValid := true, codesValid := true } : State).codesValid = true := by decide
/-- The invariants of the step obligations at a state with a command in flight that fails, and one step from it. -/
theorem witness_invariants :
    (running 0x11 []).params.legal = true ∧ (running 0x11 []).memoryOk = true ∧ (running 0x11 []).reservedOk = true ∧
      (running 0x11 []).handshakeOk = true ∧ next (fun _ => true) (step (running 0x11 [])) = true := by decide
/-- `tablesOk` and `outputOk` at the same state. -/
theorem witness_tables_invariant : (running 0x11 []).tablesOk ∧ (running 0x11 []).outputOk := by
  refine ⟨⟨fun t h => ?_, rfl, fun h => ?_⟩, by decide, fun i h => ?_⟩
  · cases h
  · cases h
  · exact absurd h (Nat.not_lt_zero i)

end Sys2Proof.Tests
end

section
/-! ## What a command that completes has written -/

namespace Sys2Proof.Machine

/-- A tree that TREE can hold (R36): none, or one with a Node root and at most NODE_CAP nodes. -/
def FitsStore (tree : Option CodeTree) : Prop := ∀ t, tree = some t → t.isNode = true ∧ t.size ≤ Config.nodeCap

theorem fitsStore_none : FitsStore none := fun _ h => nomatch h

/-! ### The codec functions: pad counts and trees -/

theorem hufEncodeBody_pad_le (data : Bytes) : (hufEncodeBody data).2 ≤ 7 := by
  unfold hufEncodeBody
  split
  · exact Nat.zero_le 7
  · exact padCount_le _

/-- The tree that `node(p)` reads adds its nodes to the count, which never passes NODE_CAP (R157). -/
theorem parseNode_count {fuel count count' : Nat} {s rest : Bytes} {t : CodeTree}
    (h : parseNode fuel s count = .ok (t, rest, count')) : count' = count + t.size ∧ count' ≤ Config.nodeCap := by
  induction fuel generalizing s count t rest count' with
  | zero => cases h
  | succ fuel ih =>
    unfold parseNode at h
    split at h
    · cases h
    · split at h
      · cases h
      · rename_i hcap
        split at h
        · cases h
          exact ⟨rfl, Nat.le_of_not_lt hcap⟩
        · split at h
          · cases h
          · rename_i hl
            split at h
            · cases h
            · rename_i hr
              cases h
              obtain ⟨hl, -⟩ := ih hl
              obtain ⟨hr, hle⟩ := ih hr
              exact ⟨by simp only [CodeTree.size]; omega, hle⟩

/-- A tree stream that parses gives a tree that TREE can hold (R157, R163). -/
theorem deserialize_fitsStore {s : Bytes} {t : CodeTree} (h : deserialize s = .ok t) : FitsStore (some t) := by
  unfold deserialize at h
  split at h
  · cases h
  · rename_i hp
    obtain ⟨hcount, hcap⟩ := parseNode_count hp
    split at h
    · cases h
    · split at h
      · rename_i hnode
        cases h
        rintro _ ⟨⟩
        exact ⟨hnode, by omega⟩
      · cases h

/-- A Huffman body that decodes gives a tree that TREE can hold and a pad count of at most 7 (R183). -/
theorem hufDecodeBody_ok {s out : Bytes} {tree : Option CodeTree} {pad : Nat}
    (h : hufDecodeBody s = .ok (out, tree, pad)) : FitsStore tree ∧ pad ≤ 7 := by
  unfold hufDecodeBody at h
  split at h
  · cases h
  · split at h
    · cases h
      exact ⟨fitsStore_none, Nat.zero_le 7⟩
    · split at h
      · cases h
      · split at h
        · cases h
        · rename_i ht
          split at h
          · cases h
          · rename_i hb
            split at h
            · cases h
            · cases h
              exact ⟨deserialize_fitsStore ht, unpackBits_pad_le hb⟩

/-! ### The success write sets -/

/-- `s` with the output `out` delivered: DST and DST_LEN (R95). -/
def State.deliver (s : State) (out : Bytes) : State :=
  { s with dst := Memory.ofBytesAt 0 out, dstLen := BitVec.ofNat 32 out.length }

theorem State.emit_deliver {s t : State} {out : Bytes} (h : s.emit out = .ok t) :
    t = s.deliver out ∧ out.length ≤ s.params.dstCap :=
  State.emit_eq_ok h

theorem State.emitRuns_deliver {s t : State} {runs : List Run} (h : s.emitRuns runs = .ok t) :
    t = s.deliver (expandRuns runs) ∧ (expandRuns runs).length ≤ s.params.dstCap :=
  State.emit_eq_ok (s.emitRuns_eq_emit runs ▸ h)

/-- What a command that succeeds writes once its output is delivered, by command (the success write sets of R41). -/
inductive SuccessWrites : Instr → State → State → Prop
  | pack {m s n} (hn : n ≤ 7) : SuccessWrites (.pack m) s { s with pad := BitVec.ofNat 32 n }
  | unpack {m s n} (hn : n ≤ 7) : SuccessWrites (.unpack m) s { s with pad := BitVec.ofNat 32 n }
  | hufBuild {m s} (inp : Bytes) :
    SuccessWrites (.hufBuild m) s (((s.setFreq (freqTable inp)).setTree (buildTree inp)).clearCodes)
  | hufCodes {m s t} (ht : s.tree = some t) : SuccessWrites (.hufCodes m) s (s.setCodes t)
  | hufSerialize {m s} : SuccessWrites (.hufSerialize m) s s
  | hufDeserialize {m s t} (ht : FitsStore (some t)) :
    SuccessWrites (.hufDeserialize m) s ((s.setTree (some t)).clearCodes)
  | hufEncode {m s n} (inp : Bytes) (hn : n ≤ 7) : SuccessWrites (.hufEncode m) s (s.hufEncodeWrites inp n)
  | hufDecode {m s tree n} (ht : FitsStore tree) (hn : n ≤ 7) :
    SuccessWrites (.hufDecode m) s (s.hufDecodeWrites tree n)
  | rleEncodeChunk {m s} (n : Nat) : SuccessWrites (.rleEncodeChunk m) s (s.setNruns n)
  | rleDecodeChunk {m s} (n : Nat) : SuccessWrites (.rleDecodeChunk m) s (s.setNruns n)
  | rleEncode {m s} (n : Nat) : SuccessWrites (.rleEncode m) s (s.setNruns n)
  | rleDecode {m s} (n : Nat) : SuccessWrites (.rleDecode m) s (s.setNruns n)
  | compressRle {m s} (n nIn nOut : Nat) :
    SuccessWrites (.compress m) s ((s.setNruns n).setEfficiency nIn nOut)
  | compressHuf {m s n} (inp : Bytes) (nIn nOut : Nat) (hn : n ≤ 7) :
    SuccessWrites (.compress m) s ((s.hufEncodeWrites inp n).setEfficiency nIn nOut)
  | extractRle {m s e} (n : Nat) (he : e.length ≤ s.params.extCap) :
    SuccessWrites (.extract m) s ((s.setNruns n).setExt e)
  | extractHuf {m s e tree n} (ht : FitsStore tree) (hn : n ≤ 7) (he : e.length ≤ s.params.extCap) :
    SuccessWrites (.extract m) s ((s.hufDecodeWrites tree n).setExt e)

/-- `t` is `s` after the command `i` delivered an output that fits DST and made its other writes. -/
def Succeeds (i : Instr) (s t : State) : Prop :=
  ∃ out : Bytes, out.length ≤ s.params.dstCap ∧ SuccessWrites i (s.deliver out) t

theorem bodyPack_succeeds {m : BitVec 2} {s t : State} (h : bodyPack s = .ok t) : Succeeds (.pack m) s t := by
  unfold bodyPack at h
  split at h
  · cases h
  · split at h
    · split at h
      · cases h
      · rename_i he
        obtain ⟨rfl, hle⟩ := State.emit_deliver he
        cases h
        exact ⟨_, hle, .pack (padCount_le _)⟩
    · cases h

theorem bodyUnpack_succeeds {m : BitVec 2} {s t : State} (h : bodyUnpack s = .ok t) : Succeeds (.unpack m) s t := by
  unfold bodyUnpack at h
  split at h
  · cases h
  · split at h
    · cases h
    · rename_i hu
      split at h
      · cases h
      · rename_i he
        obtain ⟨rfl, hle⟩ := State.emit_deliver he
        cases h
        exact ⟨_, hle, .unpack (unpackBits_pad_le hu)⟩

theorem bodyHufBuild_succeeds {m : BitVec 2} {s t : State} (h : bodyHufBuild s = .ok t) :
    Succeeds (.hufBuild m) s t := by
  unfold bodyHufBuild at h
  split at h
  · cases h
  · cases h
    exact ⟨[], Nat.zero_le _, .hufBuild _⟩

theorem bodyHufCodes_succeeds {m : BitVec 2} {s t : State} (h : bodyHufCodes s = .ok t) :
    Succeeds (.hufCodes m) s t := by
  unfold bodyHufCodes at h
  split at h
  · cases h
  · rename_i ht
    cases h
    exact ⟨[], Nat.zero_le _, .hufCodes ht⟩

theorem bodyHufSerialize_succeeds {m : BitVec 2} {s t : State} (h : bodyHufSerialize s = .ok t) :
    Succeeds (.hufSerialize m) s t := by
  obtain ⟨rfl, hle⟩ := State.emit_deliver h
  exact ⟨_, hle, .hufSerialize⟩

theorem bodyHufDeserialize_succeeds {m : BitVec 2} {s t : State} (h : bodyHufDeserialize s = .ok t) :
    Succeeds (.hufDeserialize m) s t := by
  unfold bodyHufDeserialize at h
  split at h
  · cases h
  · split at h
    · cases h
    · rename_i hd
      cases h
      exact ⟨[], Nat.zero_le _, .hufDeserialize (deserialize_fitsStore hd)⟩

theorem bodyHufEncode_succeeds {m : BitVec 2} {s t : State} (h : bodyHufEncode s = .ok t) :
    Succeeds (.hufEncode m) s t := by
  unfold bodyHufEncode at h
  split at h
  · cases h
  · split at h
    · cases h
    · rename_i he
      obtain ⟨rfl, hle⟩ := State.emit_deliver he
      cases h
      exact ⟨_, hle, .hufEncode _ (hufEncodeBody_pad_le _)⟩

theorem bodyHufDecode_succeeds {m : BitVec 2} {s t : State} (h : bodyHufDecode s = .ok t) :
    Succeeds (.hufDecode m) s t := by
  unfold bodyHufDecode at h
  split at h
  · cases h
  · split at h
    · cases h
    · rename_i hd
      obtain ⟨htree, hpad⟩ := hufDecodeBody_ok hd
      split at h
      · cases h
      · rename_i he
        obtain ⟨rfl, hle⟩ := State.emit_deliver he
        cases h
        exact ⟨_, hle, .hufDecode htree hpad⟩

theorem bodyRleEncodeChunk_succeeds {m : BitVec 2} {s t : State} (h : bodyRleEncodeChunk s = .ok t) :
    Succeeds (.rleEncodeChunk m) s t := by
  unfold bodyRleEncodeChunk at h
  split at h
  · cases h
  · split at h
    · cases h
    · split at h
      · cases h
      · dsimp only at h
        split at h
        · cases h
        · rename_i he
          obtain ⟨rfl, hle⟩ := State.emit_deliver he
          cases h
          exact ⟨_, hle, .rleEncodeChunk _⟩

theorem bodyRleDecodeChunk_succeeds {m : BitVec 2} {s t : State} (h : bodyRleDecodeChunk s = .ok t) :
    Succeeds (.rleDecodeChunk m) s t := by
  unfold bodyRleDecodeChunk at h
  split at h
  · cases h
  · split at h
    · cases h
    · split at h
      · cases h
      · split at h
        · cases h
        · rename_i he
          obtain ⟨rfl, hle⟩ := State.emitRuns_deliver he
          cases h
          exact ⟨_, hle, .rleDecodeChunk _⟩

theorem bodyRleEncode_succeeds {m : BitVec 2} {s t : State} (h : bodyRleEncode s = .ok t) :
    Succeeds (.rleEncode m) s t := by
  unfold bodyRleEncode at h
  split at h
  · cases h
  · split at h
    · cases h
    · split at h
      · cases h
      · rename_i he
        obtain ⟨rfl, hle⟩ := State.emit_deliver he
        cases h
        exact ⟨_, hle, .rleEncode _⟩

theorem bodyRleDecode_succeeds {m : BitVec 2} {s t : State} (h : bodyRleDecode s = .ok t) :
    Succeeds (.rleDecode m) s t := by
  unfold bodyRleDecode at h
  split at h
  · cases h
  · split at h
    · cases h
    · split at h
      · cases h
      · rename_i he
        obtain ⟨rfl, hle⟩ := State.emitRuns_deliver he
        cases h
        exact ⟨_, hle, .rleDecode _⟩

theorem bodyCompressRle_succeeds {m : BitVec 2} {s t : State} {inp : Bytes} (h : bodyCompressRle s inp = .ok t) :
    Succeeds (.compress m) s t := by
  unfold bodyCompressRle at h
  split at h
  · cases h
  · split at h
    · cases h
    · dsimp only at h
      split at h
      · cases h
      · rename_i he
        obtain ⟨rfl, hle⟩ := State.emit_deliver he
        cases h
        exact ⟨_, hle, .compressRle _ _ _⟩

theorem bodyCompressHuf_succeeds {m : BitVec 2} {s t : State} {inp : Bytes} (h : bodyCompressHuf s inp = .ok t) :
    Succeeds (.compress m) s t := by
  unfold bodyCompressHuf at h
  split at h
  · cases h
  · dsimp only at h
    split at h
    · cases h
    · rename_i he
      obtain ⟨rfl, hle⟩ := State.emit_deliver he
      cases h
      exact ⟨_, hle, .compressHuf _ _ _ (hufEncodeBody_pad_le _)⟩

theorem bodyCompress_succeeds {m : BitVec 2} {s t : State} (h : bodyCompress m s = .ok t) :
    Succeeds (.compress m) s t := by
  unfold bodyCompress at h
  split at h
  · cases h
  · split at h
    · exact bodyCompressRle_succeeds h
    · split at h
      · exact bodyCompressHuf_succeeds h
      · cases h

/-- A Huffman artifact that decodes gives a tree that TREE can hold and a pad count of at most 7 (R231). -/
theorem extractOne_huf_ok {a out e : Bytes} {tree : Option CodeTree} {pad : Nat}
    (h : extractOne a = .ok (.huf out tree pad, e)) : FitsStore tree ∧ pad ≤ 7 := by
  unfold extractOne at h
  split at h
  · cases h
  · split at h
    · cases h
    · split at h
      · cases h
      · split at h
        · cases h
        · rename_i hx
          cases h
          unfold extractBody at hx
          split at hx
          · split at hx <;> cases hx
          · split at hx
            · cases hx
            · rename_i hd
              cases hx
              exact hufDecodeBody_ok hd

theorem bodyExtract_succeeds {m : BitVec 2} {s t : State} (h : bodyExtract s = .ok t) :
    Succeeds (.extract m) s t := by
  unfold bodyExtract at h
  split at h
  · cases h
  · split at h
    · cases h
    · rename_i x e hx
      split at h
      · cases h
      · rename_i hext
        rw [State.emitExtracted_eq_emit] at h
        split at h
        · cases h
        · rename_i he
          obtain ⟨rfl, hle⟩ := State.emit_deliver he
          cases h
          refine ⟨_, hle, ?_⟩
          cases x with
          | rle runs n => exact .extractRle n (Nat.le_of_not_lt hext)
          | huf out tree pad =>
            obtain ⟨htree, hpad⟩ := extractOne_huf_ok hx
            exact .extractHuf htree hpad (Nat.le_of_not_lt hext)

/-- Every body that returns a state has made exactly the writes of its command. -/
theorem bodyOf_succeeds {i : Instr} {s t : State} (h : bodyOf i s = .ok t) : Succeeds i s t := by
  cases i with
  | pack m => exact bodyPack_succeeds h
  | unpack m => exact bodyUnpack_succeeds h
  | hufBuild m => exact bodyHufBuild_succeeds h
  | hufCodes m => exact bodyHufCodes_succeeds h
  | hufSerialize m => exact bodyHufSerialize_succeeds h
  | hufDeserialize m => exact bodyHufDeserialize_succeeds h
  | hufEncode m => exact bodyHufEncode_succeeds h
  | hufDecode m => exact bodyHufDecode_succeeds h
  | rleEncodeChunk m => exact bodyRleEncodeChunk_succeeds h
  | rleDecodeChunk m => exact bodyRleDecodeChunk_succeeds h
  | rleEncode m => exact bodyRleEncode_succeeds h
  | rleDecode m => exact bodyRleDecode_succeeds h
  | compress m => exact bodyCompress_succeeds h
  | extract m => exact bodyExtract_succeeds h

end Sys2Proof.Machine
end

section
/-! ## What every command writes and keeps -/

namespace Sys2Proof.Machine

/-- Everything a completion can do: the success write set of the command, or the error its body raised and the failure
write set. -/
theorem exec_eq_next {i : Instr} {s t : State} (h : exec i s = .next t) :
    (∃ u, Succeeds i s u ∧ t = u.succeed) ∨
      ∃ c, t = (failOf i s).raise c ∧ s.failedWith (s.failureColumn i) c.word t := by
  rw [exec_eq_complete] at h
  obtain ⟨u, hu, rfl⟩ | ⟨c, -, rfl⟩ := complete_eq_next h
  · exact .inl ⟨u, bodyOf_succeeds hu, rfl⟩
  · exact .inr ⟨c, rfl, failOf_failedWith i s c⟩

/-! ### The frame -/

/-- `t` has what no command writes as it is in `s` (R27, R38, R41). -/
structure State.OperandsKept (s t : State) : Prop where
  src : t.src = s.src
  srcLen : t.srcLen = s.srcLen
  unitSize : t.unitSize = s.unitSize
  cmd : t.cmd = s.cmd
  ie : t.ie = s.ie
  params : t.params = s.params
  resetIn : t.resetIn = s.resetIn
  events : t.events = s.events
  lastResp : t.lastResp = s.lastResp

/-- `t` differs from `s` at most in what a command writes beside its output and its end: the results, the tables with
their flags and NLEAF, and EXT. -/
def State.ResultFrame (s t : State) : Prop :=
  t = { s with
    freqValid := t.freqValid, codesValid := t.codesValid, extLen := t.extLen, pad := t.pad, nruns := t.nruns,
    efficiency := t.efficiency, nleaf := t.nleaf, freq := t.freq, tree := t.tree, codeLen := t.codeLen,
    codeBits := t.codeBits, ext := t.ext }

/-- A Huffman encoding writes PAD and the tables alone (R184). -/
theorem State.hufEncodeWrites_eq (s : State) (data : Bytes) (n : Nat) :
    s.hufEncodeWrites data n = { s with
      pad := BitVec.ofNat 32 n, freq := freqTable data, freqValid := true, tree := buildTree data,
      nleaf := BitVec.ofNat 32 (leafCount (buildTree data)), codeLen := (s.setCodesOf (buildTree data)).codeLen,
      codeBits := (s.setCodesOf (buildTree data)).codeBits, codesValid := (buildTree data).isSome } := by
  unfold State.hufEncodeWrites
  cases buildTree data <;> rfl

theorem SuccessWrites.frame {i : Instr} {s t : State} (h : SuccessWrites i s t) : s.ResultFrame t := by
  cases h with
  | hufEncode inp _ | compressHuf inp _ _ _ => rw [State.hufEncodeWrites_eq]; rfl
  | _ => rfl

theorem SuccessWrites.err {i : Instr} {s t : State} (h : SuccessWrites i s t) : t.err = s.err := by rw [h.frame]

theorem SuccessWrites.dst {i : Instr} {s t : State} (h : SuccessWrites i s t) : t.dst = s.dst := by rw [h.frame]

theorem SuccessWrites.dstLen {i : Instr} {s t : State} (h : SuccessWrites i s t) : t.dstLen = s.dstLen := by
  rw [h.frame]

/-- No command writes its operands, CTRL.IE, CMD, the parameters or the host's side (R27, R38, R41). -/
theorem exec_operandsKept {i : Instr} {s t : State} (h : exec i s = .next t) : s.OperandsKept t := by
  obtain ⟨u, ⟨out, -, hu⟩, rfl⟩ | ⟨c, -, hf⟩ := exec_eq_next h
  · constructor <;> rw [hu.frame] <;> rfl
  · constructor <;> rw [hf]

/-! ### STATUS and ERRCODE -/

/-- Every completion leaves SEQ IDLE and DONE set; ERRCODE is 0 and ERR as it was, or the word of a cause and ERR set
(R97, R255). -/
theorem exec_status {i : Instr} {s t : State} (h : exec i s = .next t) :
    t.seq = .idle ∧ t.done = true ∧
      ((t.errcode = 0 ∧ t.err = s.err) ∨ ∃ c : Cause, t.errcode = c.word ∧ t.err = true) := by
  obtain ⟨u, ⟨out, -, hu⟩, rfl⟩ | ⟨c, rfl, -⟩ := exec_eq_next h
  · exact ⟨rfl, rfl, .inl ⟨rfl, hu.err⟩⟩
  · exact ⟨rfl, rfl, .inr ⟨c, rfl, rfl⟩⟩

/-! ### DST -/

/-- Every command leaves DST with an output that fits it, which is empty where the command fails (R28, R95). -/
theorem exec_dst {i : Instr} {s t : State} (h : exec i s = .next t) :
    ∃ out : Bytes, out.length ≤ s.params.dstCap ∧ t.dst = Memory.ofBytesAt 0 out ∧
      t.dstLen = BitVec.ofNat 32 out.length := by
  obtain ⟨u, ⟨out, hle, hu⟩, rfl⟩ | ⟨c, -, hf⟩ := exec_eq_next h
  · exact ⟨out, hle, hu.dst, hu.dstLen⟩
  · exact ⟨[], Nat.zero_le _, congrArg State.dst hf, congrArg State.dstLen hf⟩

/-! ### EXT -/

theorem SuccessWrites.ext {i : Instr} {s t : State} (h : SuccessWrites i s t) :
    (t.ext = s.ext ∧ t.extLen = s.extLen) ∨
      ∃ m e, i = .extract m ∧ e.length ≤ s.params.extCap ∧ t.ext = s.ext.write 0 e := by
  cases h with
  | hufEncode inp _ | compressHuf inp _ _ _ => rw [State.hufEncodeWrites_eq]; exact .inl ⟨rfl, rfl⟩
  | extractRle _ he | extractHuf _ _ he => exact .inr ⟨_, _, rfl, he, rfl⟩
  | _ => exact .inl ⟨rfl, rfl⟩

/-- EXTRACT alone writes EXT, and inside its capacity (R234, R95). -/
theorem exec_ext {i : Instr} {s t : State} (h : exec i s = .next t) :
    (t.ext = s.ext ∧ t.extLen = s.extLen) ∨
      ∃ m e, i = .extract m ∧ e.length ≤ s.params.extCap ∧ t.ext = s.ext.write 0 e := by
  obtain ⟨u, ⟨out, -, hu⟩, rfl⟩ | ⟨c, -, hf⟩ := exec_eq_next h
  · exact hu.ext
  · exact .inl ⟨by rw [hf], by rw [hf]⟩

/-! ### PAD and NLEAF -/

theorem toNat_ofNat_lt {n k : Nat} (hn : n < k) : (BitVec.ofNat 32 n).toNat < k :=
  (BitVec.toNat_ofNat n 32 ▸ Nat.mod_le n (2 ^ 32)).trans_lt hn

theorem SuccessWrites.pad {i : Instr} {s t : State} (h : SuccessWrites i s t) :
    t.pad = s.pad ∨ t.pad.toNat < 2 ^ 3 := by
  cases h with
  | pack hn | unpack hn | hufDecode _ hn | extractHuf _ hn _ => exact .inr (toNat_ofNat_lt (Nat.lt_succ_of_le hn))
  | hufEncode inp hn | compressHuf inp _ _ hn =>
    rw [State.hufEncodeWrites_eq]
    exact .inr (toNat_ofNat_lt (Nat.lt_succ_of_le hn))
  | _ => exact .inl rfl

/-- Every command leaves PAD as it was or at most 7 (R31). -/
theorem exec_pad {i : Instr} {s t : State} (h : exec i s = .next t) : t.pad = s.pad ∨ t.pad.toNat < 2 ^ 3 := by
  obtain ⟨u, ⟨out, -, hu⟩, rfl⟩ | ⟨c, -, hf⟩ := exec_eq_next h
  · exact hu.pad
  · have hpad : t.pad = if (s.failureColumn i).pad then 0 else s.pad := congrArg State.pad hf
    split at hpad
    · exact .inr (hpad ▸ by decide)
    · exact .inl hpad

end Sys2Proof.Machine
end

section
/-! ## The tree of the builder fits TREE

Each round of the builder keeps the number of nodes counted with one more for every slot, so the tree of `k` distinct
bytes has `2 * k - 1` nodes (R8, R151). -/

namespace Sys2Proof.Machine

/-- The nodes of the builder's list, one more counted for every slot. -/
def slotNodes (l : List Slot) : Nat := (l.map fun x => x.2.size + 1).sum

theorem slotNodes_cons (x : Slot) (l : List Slot) : slotNodes (x :: l) = x.2.size + 1 + slotNodes l := by
  simp [slotNodes]

theorem slotNodes_perm {l l' : List Slot} (h : l.Perm l') : slotNodes l = slotNodes l' := (h.map _).sum_eq

/-- Taking slot `i` out of the list takes its nodes off. -/
theorem slotNodes_eraseIdx {l : List Slot} {i : Nat} {x : Slot} (h : l[i]? = some x) :
    slotNodes l = x.2.size + 1 + slotNodes (l.eraseIdx i) := by
  obtain ⟨hi, rfl⟩ := List.getElem?_eq_some_iff.mp h
  rw [← slotNodes_perm (List.getElem_cons_eraseIdx_perm hi), slotNodes_cons]

/-- Replacing slot `hi` by the node of the slots `lo` and `hi` and taking slot `lo` out keeps the count. -/
theorem slotNodes_merge {l : List Slot} {lo hi w : Nat} {f : Word} {a b : Slot} (hlt : lo < hi)
    (ha : l[lo]? = some a) (hb : l[hi]? = some b) :
    slotNodes ((l.set hi (w, .node f a.2 b.2)).eraseIdx lo) = slotNodes l := by
  have hlen : hi < l.length := (List.getElem?_eq_some_iff.mp hb).1
  have ha' : (l.set hi (w, .node f a.2 b.2))[lo]? = some a := by rw [List.getElem?_set_ne hlt.ne', ha]
  have hset := slotNodes_perm (List.set_perm_cons_eraseIdx hlen (w, CodeTree.node f a.2 b.2))
  rw [slotNodes_eraseIdx ha', slotNodes_cons, CodeTree.size] at hset
  rw [slotNodes_eraseIdx hb]
  omega

/-- One round of the builder keeps the count of nodes and slots. -/
theorem mergeLowest_slotNodes (l : List Slot) : mergeLowest l = [] ∨ slotNodes (mergeLowest l) = slotNodes l := by
  unfold mergeLowest
  dsimp only
  split
  · rename_i ha hb
    refine .inr (slotNodes_merge ?_ ha hb)
    split <;> omega
  · exact .inl rfl

theorem mergeAll_size {fuel : Nat} {l : List Slot} {t : CodeTree} (h : mergeAll fuel l = some t) :
    t.size + 1 = slotNodes l := by
  induction fuel, l using mergeAll.induct with
  | case1 fuel x =>
    rw [mergeAll] at h
    cases h
    rfl
  | case2 l hl =>
    rw [mergeAll] at h
    · cases h
    · exact hl
  | case3 fuel l hl ih =>
    rw [mergeAll] at h
    · have hsize := ih h
      obtain hnil | hkeep := mergeLowest_slotNodes l
      · rw [hnil] at hsize
        cases hsize
      · rw [hsize, hkeep]
    · exact hl

theorem foldl_insert_nodup (data acc : Bytes) (h : acc.Nodup) :
    (data.foldl (fun s b => if b ∈ s then s else s ++ [b]) acc).Nodup := by
  induction data generalizing acc with
  | nil => exact h
  | cons b data ih =>
    rw [List.foldl_cons]
    refine ih _ ?_
    split
    · exact h
    · rename_i hb
      exact h.append (List.nodup_singleton b) (List.disjoint_singleton.mpr hb)

/-- The seed order lists distinct bytes, at most 256 of them (R150). -/
theorem seedOrder_length_le (data : Bytes) : (seedOrder data).length ≤ 256 := by
  have h : (seedOrder data).Nodup := foldl_insert_nodup data [] List.nodup_nil
  exact h.dedup ▸ dedup_length_le (seedOrder data)

theorem seedSlots_slotNodes (data : Bytes) : slotNodes (seedSlots data) = 2 * (seedOrder data).length := by
  unfold seedSlots
  induction seedOrder data with
  | nil => rfl
  | cons b rest ih =>
    rw [List.map_cons, slotNodes_cons, ih, List.length_cons, CodeTree.size]
    omega

theorem isNode_of_one_lt_size {t : CodeTree} (h : 1 < t.size) : t.isNode = true := by
  cases t with
  | leaf b => exact absurd h (lt_irrefl 1)
  | node f l r => rfl

/-- The tree of the builder has a Node root and at most 511 nodes (R8, R151, R152). -/
theorem buildTree_fitsStore (data : Bytes) : FitsStore (buildTree data) := by
  intro t ht
  unfold buildTree at ht
  split at ht
  · cases ht
  · cases ht
    exact ⟨rfl, by simp [CodeTree.size, Config.nodeCap]⟩
  · rename_i hnil hone
    have hsize := mergeAll_size ht
    rw [seedSlots_slotNodes] at hsize
    have hle := seedOrder_length_le data
    have htwo : 2 ≤ (seedOrder data).length := by
      match hs : seedOrder data with
      | [] => exact absurd hs hnil
      | [b] => exact absurd hs (hone b)
      | _ :: _ :: _ => simp
    exact ⟨isNode_of_one_lt_size (by omega), by simp only [Config.nodeCap]; omega⟩

end Sys2Proof.Machine
end

section
/-! ## What a command leaves in the tables -/

namespace Sys2Proof.Machine

/-! ### NLEAF -/

/-- Every leaf count fits bits 8:0 of NLEAF (R34). -/
theorem leafCount_word_lt (tree : Option CodeTree) : (BitVec.ofNat 32 (leafCount tree)).toNat < 2 ^ 9 :=
  toNat_ofNat_lt (Nat.lt_of_le_of_lt (leafCount_le tree) (by decide))

theorem SuccessWrites.nleaf {i : Instr} {s t : State} (h : SuccessWrites i s t) :
    t.nleaf = s.nleaf ∨ t.nleaf.toNat < 2 ^ 9 := by
  cases h with
  | hufBuild _ | hufDeserialize _ | hufDecode _ _ | extractHuf _ _ _ => exact .inr (leafCount_word_lt _)
  | hufEncode inp _ | compressHuf inp _ _ _ =>
    rw [State.hufEncodeWrites_eq]
    exact .inr (leafCount_word_lt _)
  | _ => exact .inl rfl

/-- Every command leaves NLEAF as it was or below 512 (R34). -/
theorem exec_nleaf {i : Instr} {s t : State} (h : exec i s = .next t) :
    t.nleaf = s.nleaf ∨ t.nleaf.toNat < 2 ^ 9 := by
  obtain ⟨u, ⟨out, -, hu⟩, rfl⟩ | ⟨c, -, hf⟩ := exec_eq_next h
  · exact hu.nleaf
  · have hnleaf : t.nleaf = if (s.failureColumn i).tree then 0 else s.nleaf := by rw [hf]
    split at hnleaf
    · exact .inr (hnleaf ▸ by decide)
    · exact .inl hnleaf

/-! ### TREE, NLEAF and CODE agree -/

theorem State.tablesOk_setTree_clearCodes (s : State) {tree : Option CodeTree} (h : FitsStore tree) :
    ((s.setTree tree).clearCodes).tablesOk :=
  ⟨h, rfl, fun hv => nomatch hv⟩

theorem State.tablesOk_setTree_setCodesOf (s : State) {tree : Option CodeTree} (h : FitsStore tree) :
    ((s.setTree tree).setCodesOf tree).tablesOk := by
  cases tree with
  | none => exact s.tablesOk_setTree_clearCodes h
  | some t => exact ⟨h, rfl, fun _ => ⟨t, rfl, rfl, rfl⟩⟩

theorem State.tablesOk_setCodes {s : State} {t : CodeTree} (h : s.tablesOk) (ht : s.tree = some t) :
    (s.setCodes t).tablesOk :=
  ⟨h.1, h.2.1, fun _ => ⟨t, ht, rfl, rfl⟩⟩

theorem SuccessWrites.tablesOk {i : Instr} {s t : State} (h : SuccessWrites i s t) (hs : s.tablesOk) : t.tablesOk := by
  cases h with
  | hufBuild inp => exact State.tablesOk_setTree_clearCodes _ (buildTree_fitsStore inp)
  | hufCodes ht => exact State.tablesOk_setCodes hs ht
  | hufDeserialize ht | hufDecode ht _ | extractHuf ht _ _ => exact State.tablesOk_setTree_clearCodes s ht
  | hufEncode inp _ | compressHuf inp _ _ _ => exact State.tablesOk_setTree_setCodesOf _ (buildTree_fitsStore inp)
  | _ => exact hs

/-- Every column of R41 that clears TREE clears CODE too. -/
theorem State.failureColumn_codes_of_tree (s : State) (i : Instr) :
    (s.failureColumn i).tree = true → (s.failureColumn i).codes = true := by
  cases i with
  | compress m | extract m =>
    simp only [State.failureColumn]
    split_ifs <;> decide
  | _ =>
    simp only [State.failureColumn]
    decide

theorem State.failedWith.tablesOk {s t : State} {col : FailureColumn} {e : Word} (h : s.failedWith col e t)
    (hcol : col.tree = true → col.codes = true) (hs : s.tablesOk) : t.tablesOk := by
  obtain ⟨hfit, hnleaf, hcodes⟩ := hs
  have htree : t.tree = if col.tree then none else s.tree := by rw [h]
  have hcount : t.nleaf = if col.tree then 0 else s.nleaf := by rw [h]
  have hvalid : t.codesValid = if col.codes then false else s.codesValid := by rw [h]
  cases hct : col.tree with
  | true =>
    simp only [hct, hcol hct, if_true] at htree hcount hvalid
    exact ⟨htree ▸ fitsStore_none, by rw [hcount, htree]; rfl, fun hv => by rw [hvalid] at hv; cases hv⟩
  | false =>
    simp only [hct, Bool.false_eq_true, if_false] at htree hcount
    refine ⟨htree ▸ hfit, by rw [hcount, htree]; exact hnleaf, fun hv => ?_⟩
    cases hcc : col.codes with
    | true => simp [hvalid, hcc] at hv
    | false =>
      have hlen : t.codeLen = s.codeLen := by rw [h]; simp [hcc]
      have hbits : t.codeBits = s.codeBits := by rw [h]; simp [hcc]
      simp only [hcc, Bool.false_eq_true, if_false] at hvalid
      rw [htree, hlen, hbits]
      exact hcodes (hvalid.symm.trans hv)

/-- Every command keeps the tables consistent (R34, R36, R37). -/
theorem exec_tablesOk {i : Instr} {s t : State} (h : exec i s = .next t) (hs : s.tablesOk) : t.tablesOk := by
  obtain ⟨u, ⟨out, -, hu⟩, rfl⟩ | ⟨c, -, hf⟩ := exec_eq_next h
  · exact hu.tablesOk hs
  · exact hf.tablesOk (s.failureColumn_codes_of_tree i) hs

end Sys2Proof.Machine
end

section
/-! ## What a step does -/

namespace Sys2Proof.Machine

theorem State.busy_eq_false_iff (s : State) : s.busy = false ↔ s.seq = .idle := by
  cases h : s.seq <;> simp [State.busy, h]

/-- Where an admitted access to a buffer lies: inside its capacity (R62). -/
theorem State.locate_buffer {s : State} {addr : Addr} {size : Size} {w : Buffer} {off : Nat}
    (h : s.locate addr size = some (.buffer w off)) : off + size.bytes ≤ s.capOf w := by
  unfold State.locate at h
  dsimp only at h
  split at h
  · split at h
    · rename_i hin
      cases h
      exact hin.2
    · cases h
  · split at h
    · unfold wordLoc at h
      split_ifs at h
      · simp at h
      all_goals cases h
    · cases h

/-- Everything a bus write can do to the block, the recorded answer apart (R23-R30, R63-R65, R70, R281). -/
inductive State.WriteEffect (s : State) : State → Prop
  | none : WriteEffect s s
  | reset : WriteEffect s s.resetBlock
  | start (ie : Bool) (hidle : s.seq = .idle) : WriteEffect s ({ s with ie := ie }.startCommand)
  | ie (ie : Bool) : WriteEffect s { s with ie := ie }
  | ack (v : Word) (hidle : s.seq = .idle) : WriteEffect s (s.ackStatus v)
  | cmd (v : Word) : WriteEffect s { s with cmd := v &&& 0x3FF#32 }
  | srcLen (v : Word) : WriteEffect s { s with srcLen := v }
  | unitSize (v : Word) : WriteEffect s { s with unitSize := v }
  | extLen (v : Word) : WriteEffect s { s with extLen := v }
  | src {off : Nat} {bs : Bytes} (hin : off + bs.length ≤ s.params.srcCap) :
    WriteEffect s { s with src := s.src.write off bs }
  | ext {off : Nat} {bs : Bytes} (hin : off + bs.length ≤ s.params.extCap) :
    WriteEffect s { s with ext := s.ext.write off bs }

theorem State.writeCtrl_effect (s : State) (v : Word) : s.WriteEffect (s.writeCtrl v) := by
  obtain ⟨-, h⟩ | ⟨-, -, hb, h⟩ | ⟨-, -, h⟩ := s.writeCtrl_cases v <;> rw [h]
  · exact .reset
  · exact .start _ (s.busy_eq_false_iff.mp hb)
  · exact .ie _

theorem State.writeLoc_effect {s : State} {addr : Addr} {size : Size} {loc : Loc} (v : Word) (hb : s.busy = false)
    (hl : s.locate addr size = some loc) : s.WriteEffect (s.writeLoc size v loc) := by
  cases loc with
  | reg r =>
    cases r with
    | ctrl => exact s.writeCtrl_effect v
    | status => exact .ack v (s.busy_eq_false_iff.mp hb)
    | cmd => exact .cmd v
    | srcLen => exact .srcLen v
    | unitSize => exact .unitSize v
    | extLen => exact .extLen v
    | id | errcode | dstLen | pad | nruns | efficiency | nleaf => exact .none
  | freq _ | codeLen _ | codeBits _ _ => exact .none
  | buffer w off =>
    have hin := State.locate_buffer hl
    cases w with
    | src => exact .src (by rwa [leBytes_length])
    | ext => exact .ext (by rwa [leBytes_length])
    | dst => exact .none

theorem State.busWrite_effect (s : State) (addr : Addr) (size : Size) (v : Word) :
    ∃ w r, s.WriteEffect w ∧ s.busWrite addr size v = { w with lastResp := some (.write r) } := by
  obtain ⟨-, -, h⟩ | ⟨-, -, h⟩ | ⟨-, -, h⟩ | ⟨hb, loc, hl, h⟩ := s.busWrite_cases addr size v
  · exact ⟨_, _, s.writeCtrl_effect v, h⟩
  · exact ⟨_, _, .none, h⟩
  · exact ⟨_, _, .none, h⟩
  · exact ⟨_, _, State.writeLoc_effect v hb hl, h⟩

/-- Everything an event, or the turn of the block where none is left, can do to the state `s`. -/
inductive State.Effect (s : State) : State → Prop
  | idle : Effect s s
  | command {i : Instr} {t : State} (hbusy : s.seq = .busy) (h : exec i s = .next t) : Effect s t
  | illegal (hbusy : s.seq = .busy) : Effect s (s.noOutput.raise .cmdIllegal)
  | read (addr : Addr) (size : Size) : Effect s (s.busRead addr size)
  | write {w : State} (r : Resp) (hreset : s.resetIn = false) (h : s.WriteEffect w) :
    Effect s { w with lastResp := some (.write r) }
  | assertReset : Effect s { s.resetBlock with resetIn := true }
  | releaseReset : Effect s { s with resetIn := false }

theorem blockTurn_effect {s t : State} (h : blockTurn s = .next t) : s.Effect t := by
  obtain ⟨-, hb⟩ | ⟨i, hs, -, hb⟩ | ⟨e, hs, -, hb⟩ := blockTurn_cases s <;> rw [hb] at h
  · cases h
    exact .idle
  · exact .command hs h
  · cases h
    exact .illegal hs

theorem onBus_eq_next {s t u : State} (h : onBus s t = .next u) : s.resetIn = false ∧ u = t := by
  unfold onBus at h
  split at h
  · cases h
  · cases h
    exact ⟨Bool.eq_false_iff.mpr ‹_›, rfl⟩

theorem perform_effect {e : Event} {s t : State} (h : perform e s = .next t) : s.Effect t := by
  cases e with
  | read addr size =>
    obtain ⟨-, rfl⟩ := onBus_eq_next h
    exact .read addr size
  | write addr size v =>
    obtain ⟨hr, rfl⟩ := onBus_eq_next h
    obtain ⟨w, r, hw, heq⟩ := s.busWrite_effect addr size v
    rw [heq]
    exact .write r hr hw
  | block => exact blockTurn_effect h
  | resetInput level =>
    cases h
    cases level with
    | true => exact .assertReset
    | false => exact .releaseReset

/-- Everything a step can do: an effect on the state with the events that are left after it. -/
theorem step_effect {s t : State} (h : step s = .next t) : ∃ rest, { s with events := rest }.Effect t := by
  obtain ⟨-, hs⟩ | ⟨e, rest, -, hs⟩ := stepState_cases s <;> rw [step, hs] at h
  · exact ⟨s.events, blockTurn_effect h⟩
  · exact ⟨rest, perform_effect h⟩

end Sys2Proof.Machine
end

section
/-! ## The invariants that every step keeps -/

namespace Sys2Proof.Machine

/-! ### The memories and the parameters -/

theorem State.memoryOk_iff (s : State) :
    s.memoryOk = true ↔
      s.src.wf s.params.srcCap = true ∧ s.dst.wf s.params.dstCap = true ∧ s.ext.wf s.params.extCap = true := by
  simp [State.memoryOk, and_assoc]

theorem exec_memoryOk {i : Instr} {s t : State} (h : exec i s = .next t) (hs : s.memoryOk = true) :
    t.memoryOk = true := by
  obtain ⟨hsrc, -, hext⟩ := s.memoryOk_iff.mp hs
  have hp : t.params = s.params := (exec_operandsKept h).params
  have hsrc' : t.src = s.src := (exec_operandsKept h).src
  obtain ⟨out, hout, hdst, -⟩ := exec_dst h
  rw [State.memoryOk_iff, hp, hsrc', hdst]
  refine ⟨hsrc, Memory.wf_ofBytes hout, ?_⟩
  obtain ⟨hext', -⟩ | ⟨m, e, -, he, hext'⟩ := exec_ext h <;> rw [hext']
  · exact hext
  · exact Memory.wf_write hext (by omega)

theorem State.WriteEffect.memoryOk {s t : State} (h : s.WriteEffect t) (hs : s.memoryOk = true) :
    t.memoryOk = true ∧ t.params = s.params := by
  obtain ⟨hsrc, hdst, hext⟩ := s.memoryOk_iff.mp hs
  cases h with
  | reset => exact ⟨rfl, rfl⟩
  | src hin => exact ⟨(State.memoryOk_iff _).mpr ⟨Memory.wf_write hsrc hin, hdst, hext⟩, rfl⟩
  | ext hin => exact ⟨(State.memoryOk_iff _).mpr ⟨hsrc, hdst, Memory.wf_write hext hin⟩, rfl⟩
  | _ => exact ⟨hs, rfl⟩

theorem State.Effect.memoryOk {s t : State} (h : s.Effect t) (hs : s.memoryOk = true) :
    t.memoryOk = true ∧ t.params = s.params := by
  cases h with
  | command _ h => exact ⟨exec_memoryOk h hs, (exec_operandsKept h).params⟩
  | write r _ h => exact h.memoryOk hs
  | assertReset => exact ⟨rfl, rfl⟩
  | _ => exact ⟨hs, rfl⟩

/-! ### The output -/

theorem exec_outputOk {i : Instr} {s t : State} (h : exec i s = .next t) : t.outputOk := by
  obtain ⟨out, hout, hdst, hlen⟩ := exec_dst h
  have hp : t.params = s.params := (exec_operandsKept h).params
  have hle : t.dstLen.toNat ≤ out.length := by
    rw [hlen, BitVec.toNat_ofNat]
    exact Nat.mod_le _ _
  refine ⟨hp ▸ hle.trans hout, fun j hj => ?_⟩
  rw [hdst, Memory.byte?_ofBytes, isSome_getElem?]
  exact hj.trans_le hle

theorem State.outputOk_of_dstLen_zero {s : State} (h : s.dstLen = 0) : s.outputOk := by
  simp [State.outputOk, h]

theorem State.WriteEffect.outputOk {s t : State} (h : s.WriteEffect t) (hs : s.outputOk) : t.outputOk := by
  cases h with
  | reset => exact State.outputOk_of_dstLen_zero rfl
  | _ => exact hs

theorem State.Effect.outputOk {s t : State} (h : s.Effect t) (hs : s.outputOk) : t.outputOk := by
  cases h with
  | command _ h => exact exec_outputOk h
  | write r _ h => exact h.outputOk hs
  | illegal _ | assertReset => exact State.outputOk_of_dstLen_zero rfl
  | _ => exact hs

/-! ### The tables -/

theorem State.tablesOk_of_tree_none {s : State} (htree : s.tree = none) (hnleaf : s.nleaf = 0)
    (hcodes : s.codesValid = false) : s.tablesOk :=
  ⟨htree ▸ fitsStore_none, by rw [htree, hnleaf]; rfl, fun hv => by rw [hcodes] at hv; cases hv⟩

theorem State.WriteEffect.tablesOk {s t : State} (h : s.WriteEffect t) (hs : s.tablesOk) : t.tablesOk := by
  cases h with
  | reset => exact State.tablesOk_of_tree_none rfl rfl rfl
  | _ => exact hs

theorem State.Effect.tablesOk {s t : State} (h : s.Effect t) (hs : s.tablesOk) : t.tablesOk := by
  cases h with
  | command _ h => exact exec_tablesOk h hs
  | write r _ h => exact h.tablesOk hs
  | assertReset => exact State.tablesOk_of_tree_none rfl rfl rfl
  | _ => exact hs

/-! ### The reserved bits and the handshake -/

theorem State.reservedOk_iff (s : State) :
    s.reservedOk = true ↔
      s.cmd.toNat < 2 ^ 10 ∧ s.errcode.toNat < 2 ^ 11 ∧ s.pad.toNat < 2 ^ 3 ∧ s.nleaf.toNat < 2 ^ 9 := by
  simp [State.reservedOk, and_assoc]

/-- The word of a cause fits bits 10:0 of ERRCODE and is not 0 (R26). -/
theorem Cause.word_range (c : Cause) : c.word.toNat < 2 ^ 11 ∧ c.word ≠ 0 := by
  cases c <;> decide

theorem exec_reservedOk {i : Instr} {s t : State} (h : exec i s = .next t) (hs : s.reservedOk = true) :
    t.reservedOk = true := by
  obtain ⟨hcmd, -, hpad, hnleaf⟩ := s.reservedOk_iff.mp hs
  have hcmd' : t.cmd = s.cmd := (exec_operandsKept h).cmd
  obtain ⟨-, -, herr⟩ := exec_status h
  refine t.reservedOk_iff.mpr ⟨hcmd' ▸ hcmd, ?_, ?_, ?_⟩
  · obtain ⟨he, -⟩ | ⟨c, he, -⟩ := herr <;> rw [he]
    · decide
    · exact c.word_range.1
  · exact (exec_pad h).elim (fun he => he ▸ hpad) id
  · exact (exec_nleaf h).elim (fun he => he ▸ hnleaf) id

theorem State.WriteEffect.reservedOk {s t : State} (h : s.WriteEffect t) (hs : s.reservedOk = true) :
    t.reservedOk = true := by
  obtain ⟨hcmd, herr, hpad, hnleaf⟩ := s.reservedOk_iff.mp hs
  cases h with
  | reset => rfl
  | start ie _ => exact (State.reservedOk_iff _).mpr ⟨hcmd, (by decide : (0 : Word).toNat < 2 ^ 11), hpad, hnleaf⟩
  | cmd v =>
    have hmask : (v &&& 0x3FF#32).toNat < 2 ^ 10 := by
      rw [BitVec.toNat_and]
      exact Nat.lt_of_le_of_lt Nat.and_le_right (by decide)
    exact (State.reservedOk_iff _).mpr ⟨hmask, herr, hpad, hnleaf⟩
  | _ => exact hs

theorem State.Effect.reservedOk {s t : State} (h : s.Effect t) (hs : s.reservedOk = true) : t.reservedOk = true := by
  cases h with
  | command _ h => exact exec_reservedOk h hs
  | illegal _ =>
    obtain ⟨hcmd, -, hpad, hnleaf⟩ := s.reservedOk_iff.mp hs
    exact (State.reservedOk_iff _).mpr ⟨hcmd, Cause.cmdIllegal.word_range.1, hpad, hnleaf⟩
  | write r _ h => exact h.reservedOk hs
  | assertReset => rfl
  | _ => exact hs

theorem seq_ne_idle {q : Seq} : ¬q = .idle ↔ q = .busy := by
  cases q <;> decide

theorem State.handshakeOk_iff (s : State) :
    s.handshakeOk = true ↔
      (s.seq = .busy → s.done = false ∧ s.err = false ∧ s.errcode = 0) ∧ (s.err = true → s.errcode ≠ 0) ∧
        (s.resetIn = true → s.seq = .idle ∧ s.done = false) := by
  simp only [State.handshakeOk, Bool.and_eq_true, Bool.or_eq_true, Bool.not_eq_true', beq_iff_eq, bne_iff_ne,
    s.busy_eq_false_iff, and_assoc, or_iff_not_imp_left, Bool.not_eq_false, seq_ne_idle]

/-- A state with SEQ = IDLE and the reset input released meets the handshake where ERR is set only with a code. -/
theorem State.handshakeOk_of_idle {s : State} (hidle : s.seq = .idle) (hreset : s.resetIn = false)
    (herr : s.err = true → s.errcode ≠ 0) : s.handshakeOk = true := by
  rw [State.handshakeOk_iff, hidle, hreset]
  exact ⟨nofun, herr, nofun⟩

/-- In a state that meets the handshake a command in flight has ERR clear and the reset input released (R70, R280). -/
theorem State.handshakeOk_busy {s : State} (hs : s.handshakeOk = true) (hbusy : s.seq = .busy) :
    s.err = false ∧ s.resetIn = false := by
  obtain ⟨hb, -, hr⟩ := s.handshakeOk_iff.mp hs
  refine ⟨(hb hbusy).2.1, Bool.eq_false_iff.mpr fun h => ?_⟩
  rw [hbusy] at hr
  cases (hr h).1

theorem exec_handshakeOk {i : Instr} {s t : State} (h : exec i s = .next t) (hbusy : s.seq = .busy)
    (hs : s.handshakeOk = true) : t.handshakeOk = true := by
  obtain ⟨herr, hreset⟩ := State.handshakeOk_busy hs hbusy
  have hreset' : t.resetIn = s.resetIn := (exec_operandsKept h).resetIn
  obtain ⟨hidle, -, hend⟩ := exec_status h
  refine State.handshakeOk_of_idle hidle (hreset'.trans hreset) fun hset => ?_
  obtain ⟨-, he⟩ | ⟨c, he, -⟩ := hend
  · rw [he, herr] at hset
    cases hset
  · exact he ▸ c.word_range.2

theorem State.WriteEffect.handshakeOk {s t : State} (h : s.WriteEffect t) (hreset : s.resetIn = false)
    (hs : s.handshakeOk = true) : t.handshakeOk = true := by
  cases h with
  | reset => exact State.handshakeOk_of_idle rfl hreset nofun
  | start ie _ =>
    exact (State.handshakeOk_iff _).mpr ⟨fun _ => ⟨rfl, rfl, rfl⟩, nofun, fun hr => by simp [hreset] at hr⟩
  | ack v hidle =>
    obtain ⟨-, herr, -⟩ := s.handshakeOk_iff.mp hs
    exact State.handshakeOk_of_idle hidle hreset fun he => herr (Bool.and_eq_true_iff.mp he).1
  | _ => exact hs

theorem State.Effect.handshakeOk {s t : State} (h : s.Effect t) (hs : s.handshakeOk = true) :
    t.handshakeOk = true := by
  obtain ⟨hb, herr, hr⟩ := s.handshakeOk_iff.mp hs
  cases h with
  | command hbusy h => exact exec_handshakeOk h hbusy hs
  | illegal hbusy =>
    exact State.handshakeOk_of_idle rfl (State.handshakeOk_busy hs hbusy).2 fun _ => Cause.cmdIllegal.word_range.2
  | write r hreset h => exact h.handshakeOk hreset hs
  | assertReset => rfl
  | releaseReset => exact (State.handshakeOk_iff _).mpr ⟨hb, herr, nofun⟩
  | _ => exact hs

end Sys2Proof.Machine
end

section
open Sys2Proof Sys2Proof.Machine

/-- Settles O55: a step is an effect on the state with fewer events, and every effect keeps the memories. -/
theorem stepKeepsMemoriesCanonical : Obligations.StepKeepsMemoriesCanonical := by
  intro s t _ hs h
  obtain ⟨rest, he⟩ := step_effect h
  exact he.memoryOk hs

/-- Settles O56: every effect keeps the reserved bits, and the handshake, under which no completion leaves ERR set
without a code. -/
theorem stepKeepsRegistersLegal : Obligations.StepKeepsRegistersLegal := by
  intro s t hres hhand h
  obtain ⟨rest, he⟩ := step_effect h
  exact ⟨he.reservedOk hres, he.handshakeOk hhand⟩

/-- Settles O57: every effect keeps the tables; every tree a command stores, built or parsed, fits TREE. -/
theorem stepKeepsTablesConsistent : Obligations.StepKeepsTablesConsistent := by
  intro s t hs h
  obtain ⟨rest, he⟩ := step_effect h
  exact he.tablesOk hs

/-- Settles O58: a command leaves DST with an output that fits it, and no other effect touches DST but to clear
DST_LEN. -/
theorem stepKeepsOutputSpecified : Obligations.StepKeepsOutputSpecified := by
  intro s t hs h
  obtain ⟨rest, he⟩ := step_effect h
  exact he.outputOk hs

/-- Settles O40: a completion with an error code is no success, so it is the failure write set, which is the column. -/
theorem failureShowsNoOutput : Obligations.FailureShowsNoOutput := by
  intro i s t h hne
  obtain ⟨u, -, rfl⟩ | ⟨c, rfl, hf⟩ := exec_eq_next h
  · exact absurd rfl hne
  · exact ⟨⟨c, rfl⟩, hf, by rw [hf], by rw [hf], by rw [hf], rfl⟩

/-- Settles O41: the frame of every command, and EXTRACT alone writes EXT. -/
theorem commandsKeepTheirOperands : Obligations.CommandsKeepTheirOperands := by
  intro i s t h
  have hk := exec_operandsKept h
  refine ⟨hk.src, hk.srcLen, hk.unitSize, hk.cmd, hk.ie, hk.params, hk.resetIn, hk.events, hk.lastResp,
    fun hi => ?_⟩
  obtain hkeep | ⟨m, e, rfl, -⟩ := exec_ext h
  · exact hkeep
  · exact absurd rfl (hi m)
end

section
/-! ## The bus -/

namespace Sys2Proof.Machine

/-! ### Where the rows of the map lead -/

/-- An aligned word access at the offset of a register reaches it, whatever the capacities are (R62). -/
theorem State.locate_reg (s : State) (r : Reg) : s.locate (BitVec.ofNat 26 r.offset) .four = some (.reg r) := by
  cases r <;> rfl

/-- Outside the buffers an aligned word access reaches what its offset stands for (R62). -/
theorem State.locate_word (s : State) {a : Nat} (hbuf : a < 0x4000) (halign : a % 4 = 0) :
    s.locate (BitVec.ofNat 26 a) .four = wordLoc a := by
  have ha : (BitVec.ofNat 26 a).toNat = a := by rw [BitVec.toNat_ofNat]; omega
  have hnone : bufferAt a = none := Option.eq_none_iff_forall_ne_some.mpr fun w hw => by
    have := bufferAt_eq_some.mp hw
    omega
  unfold State.locate
  rw [ha]
  simp only [hnone, halign, and_self, if_true]

theorem State.locate_freq (s : State) (b : Byte) :
    s.locate (BitVec.ofNat 26 (0x400 + 4 * b.toNat)) .four = some (.freq b) := by
  have hb := b.isLt
  rw [s.locate_word (by omega) (by omega), wordLoc, if_neg (by omega), if_pos (by omega)]
  simp

theorem State.locate_codeLen (s : State) (b : Byte) :
    s.locate (BitVec.ofNat 26 (0x800 + 4 * b.toNat)) .four = some (.codeLen b) := by
  have hb := b.isLt
  rw [s.locate_word (by omega) (by omega), wordLoc, if_neg (by omega), if_neg (by omega), if_pos (by omega)]
  simp

theorem State.locate_codeBits (s : State) (b : Byte) (k : BitVec 3) :
    s.locate (BitVec.ofNat 26 (0x2000 + 32 * b.toNat + 4 * k.toNat)) .four = some (.codeBits b k) := by
  have hb := b.isLt
  have hk := k.isLt
  rw [s.locate_word (by omega) (by omega), wordLoc, if_neg (by omega), if_neg (by omega), if_neg (by omega),
    if_neg (by omega), if_pos (by omega)]
  have hentry : (0x2000 + 32 * b.toNat + 4 * k.toNat - 0x2000) / 32 = b.toNat := by omega
  have hword : (0x2000 + 32 * b.toNat + 4 * k.toNat - 0x2000) % 32 / 4 = k.toNat := by omega
  rw [hentry, hword, BitVec.ofNat_toNat, BitVec.ofNat_toNat, BitVec.setWidth_eq, BitVec.setWidth_eq]

theorem State.busy_of_busy {s : State} (h : s.seq = .busy) : s.busy = true := by simp [State.busy, h]

/-! ### A register access as a step -/

theorem step_read {s : State} {addr : Addr} {size : Size} {rest : List Event} (hreset : s.resetIn = false)
    (hev : s.events = .read addr size :: rest) : step s = .next ({ s with events := rest }.busRead addr size) :=
  (stepState_cons hev).trans (onBus_released hreset)

theorem step_write {s : State} {addr : Addr} {size : Size} {v : Word} {rest : List Event} (hreset : s.resetIn = false)
    (hev : s.events = .write addr size v :: rest) :
    step s = .next ({ s with events := rest }.busWrite addr size v) :=
  (stepState_cons hev).trans (onBus_released hreset)

/-- A read of a register while SEQ = IDLE answers OKAY with it (R22-R34, R66). -/
theorem step_readReg {s : State} {rest : List Event} (r : Reg) (hreset : s.resetIn = false) (hidle : s.seq = .idle)
    (hev : s.events = .read (BitVec.ofNat 26 r.offset) .four :: rest) :
    step s = .next { s with
      events := rest, lastResp := some (.read (s.readReg r) .okay), draws := s.draws + 1 } := by
  have hans : { s with events := rest }.readAnswer (BitVec.ofNat 26 r.offset) .four = .read (s.readReg r) .okay := by
    have hb : { s with events := rest }.busy = false := (State.busy_eq_false_iff _).mpr hidle
    rw [State.readAnswer_idle hb (State.locate_reg _ r)]
    cases r <;> rfl
  rw [step_read hreset hev, State.busRead, hans]

/-- A write to a register while SEQ = IDLE takes effect (R23-R30, R66). -/
theorem step_writeReg {s : State} {v : Word} {rest : List Event} (r : Reg) (hreset : s.resetIn = false)
    (hidle : s.seq = .idle) (hev : s.events = .write (BitVec.ofNat 26 r.offset) .four v :: rest) :
    step s = .next { { s with events := rest }.writeReg v r with lastResp := some (.write .okay) } := by
  have hb : { s with events := rest }.busy = false := (State.busy_eq_false_iff _).mpr hidle
  rw [step_write hreset hev, State.busWrite_idle hb (State.locate_reg _ r)]
  rfl

/-- START while SEQ = IDLE issues the command (R23, R96). -/
theorem State.writeCtrl_start {s : State} {v : Word} (hsrst : v.getLsbD 2 = false) (hstart : v.getLsbD 0 = true)
    (hidle : s.busy = false) : s.writeCtrl v = { s with ie := v.getLsbD 1 }.startCommand := by
  simp only [State.writeCtrl, hsrst, hstart, hidle]
  rfl

/-- START while SEQ = BUSY, and a write without START, update IE alone (R23, R70). -/
theorem State.writeCtrl_ie {s : State} {v : Word} (hsrst : v.getLsbD 2 = false)
    (hkeep : v.getLsbD 0 = false ∨ s.busy = true) : s.writeCtrl v = { s with ie := v.getLsbD 1 } := by
  obtain h | h := hkeep <;> simp only [State.writeCtrl, hsrst, h, Bool.not_true, Bool.and_false] <;> rfl

/-- A write to CTRL takes effect in IDLE and in BUSY (R23, R70). -/
theorem step_writeCtrl {s w : State} {v : Word} {rest : List Event} (hreset : s.resetIn = false)
    (hev : s.events = .write (BitVec.ofNat 26 Reg.ctrl.offset) .four v :: rest)
    (hw : { s with events := rest }.writeCtrl v = w) : step s = .next { w with lastResp := some (.write .okay) } := by
  rw [step_write hreset hev, State.busWrite_ctrl (State.locate_reg _ .ctrl), hw]

/-! ### STATUS and CTRL by their bits -/

theorem flagBit_getLsbD {i j : Nat} (bit : Bool) (hj : j < 32) :
    (flagBit i bit).getLsbD j = (j == i && bit) := by
  rw [flagBit, BitVec.getLsbD_ofNat]
  cases bit with
  | false => simp
  | true => simp [hj, Nat.testBit_two_pow, Bool.beq_eq_decide_eq, eq_comm]

theorem State.statusWord_getLsbD (s : State) {j : Nat} (hj : j < 32) :
    s.statusWord.getLsbD j =
      (j == 0 && s.seq == .busy || j == 1 && s.done || j == 2 && s.err || j == 3 && s.freqValid ||
        j == 4 && s.tree.isSome || j == 5 && s.codesValid) := by
  simp only [State.statusWord, BitVec.getLsbD_or, flagBit_getLsbD _ hj, State.busy, State.treeValid]

theorem State.ctrlWord_getLsbD (s : State) {j : Nat} (hj : j < 32) : s.ctrlWord.getLsbD j = (j == 1 && s.ie) :=
  flagBit_getLsbD _ hj

/-- A flag that a written 1 clears (R24). -/
theorem and_not_eq_ite (x b : Bool) : (x && !b) = if b = true then false else x := by
  cases b <;> simp

end Sys2Proof.Machine
end

section
open Sys2Proof Sys2Proof.Machine

/-- Settles O48: each write is `writeReg` of its register. -/
theorem registerWritesTakeEffect : Obligations.RegisterWritesTakeEffect := by
  intro s v rest hreset hidle
  refine ⟨fun hev => ?_, fun hev => ⟨v &&& 0x3FF#32, step_writeReg .cmd hreset hidle hev, ?_, ?_⟩,
    step_writeReg .srcLen hreset hidle, step_writeReg .unitSize hreset hidle, step_writeReg .extLen hreset hidle⟩
  · rw [step_writeReg .status hreset hidle hev]
    simp only [State.writeReg, State.ackStatus, and_not_eq_ite]
  · rw [BitVec.extractLsb'_and, (by decide : (0x3FF#32).extractLsb' 0 10 = BitVec.allOnes 10), BitVec.and_allOnes]
  · rw [BitVec.extractLsb'_and, (by decide : (0x3FF#32).extractLsb' 10 22 = 0#22), BitVec.and_zero]
    rfl

/-- Settles O49: STATUS and CTRL are sums of flag bits, and each of the listed offsets is that of its register. -/
theorem statusCtrlAndIrqReadTheirBits : Obligations.StatusCtrlAndIrqReadTheirBits := by
  intro s
  refine ⟨fun j hj => ⟨s.statusWord_getLsbD hj, s.ctrlWord_getLsbD hj⟩, ?_,
    fun a v rest hreset hidle hmem hev => ?_⟩
  · rw [s.ctrlWord_getLsbD (by decide), s.statusWord_getLsbD (by decide)]
    simp [State.irq]
  · have hreg : (a, v) ∈ allRegs.map fun r => (BitVec.ofNat 26 r.offset, s.readReg r) := hmem
    obtain ⟨r, -, hr⟩ := List.mem_map.mp hreg
    cases hr
    exact step_readReg r hreset hidle hev

/-- Settles O54: the windows' offsets lead to their entries, and a valid entry is what such a read answers. -/
theorem tableWindowsReadEntries : Obligations.TableWindowsReadEntries := by
  intro s b k hidle
  have hb := (State.busy_eq_false_iff _).mpr hidle
  rw [State.readAnswer_idle hb (s.locate_freq b), State.readAnswer_idle hb (s.locate_codeLen b),
    State.readAnswer_idle hb (s.locate_codeBits b k)]
  refine ⟨fun hv => by simp [State.readLoc, hv], fun hv => by simp [State.readLoc, hv], ⟨_, rfl, ?_⟩,
    fun hv => ⟨_, rfl, fun j hj => ?_⟩⟩
  · unfold State.readLoc
    dsimp only
    split
    · rw [BitVec.toNat_setWidth]
      have := (s.codeLen[b.toNat]'b.isLt).isLt
      omega
    · rw [lowBytes, BitVec.toNat_ofNat]
      omega
  · simp [State.readLoc, hv, State.codeBitsWord, hj]

/-- Settles O50: a write to CTRL with SRST = 0 updates IE, and issues the command where START meets SEQ = IDLE. -/
theorem startIssuesTheCommand : Obligations.StartIssuesTheCommand := by
  intro s v rest hreset hsrst hev
  refine ⟨fun hstart hidle => ?_, fun _ hbusy => ?_, fun hstart => ?_⟩
  · have hb : { s with events := rest }.busy = false := (State.busy_eq_false_iff _).mpr hidle
    exact (step_writeCtrl hreset hev (State.writeCtrl_start hsrst hstart hb)).trans rfl
  · exact (step_writeCtrl hreset hev (State.writeCtrl_ie hsrst (.inr (State.busy_of_busy hbusy)))).trans rfl
  · exact (step_writeCtrl hreset hev (State.writeCtrl_ie hsrst (.inl hstart))).trans rfl

/-- Settles O59: by evaluation; the tables are empty and DST_LEN is 0. -/
theorem resetLeavesItsValues : Obligations.ResetLeavesItsValues := by
  refine ⟨rfl, rfl, rfl, rfl, rfl, rfl, rfl, rfl, rfl, rfl, rfl, rfl, rfl, rfl, rfl, rfl, rfl, rfl, ?_, ?_, rfl⟩
  · exact State.tablesOk_of_tree_none rfl rfl rfl
  · exact State.outputOk_of_dstLen_zero rfl
end

section
/-! ## The composite commands read no retained table -/

namespace Sys2Proof.Machine

/-- `s` with FREQ and its flag as `u` holds them. -/
def State.withFreq (s u : State) : State := { s with freq := u.freq, freqValid := u.freqValid }

/-- `s` with the tables, their flags and NLEAF as `u` holds them. -/
def State.withTables (s u : State) : State :=
  { s with
    freq := u.freq, freqValid := u.freqValid, tree := u.tree, nleaf := u.nleaf, codeLen := u.codeLen,
    codeBits := u.codeBits, codesValid := u.codesValid }

theorem State.emit_withTables (s u : State) (out : Bytes) :
    (s.withTables u).emit out = (s.emit out).map (·.withTables u) := by
  unfold State.emit
  rw [apply_ite (Except.map _)]
  rfl

/-- The writes of a Huffman encoding leave nothing of the tables as they were. -/
theorem State.hufEncodeWrites_withTables (s u : State) (data : Bytes) (n : Nat) :
    (s.withTables u).hufEncodeWrites data n = s.hufEncodeWrites data n := by
  unfold State.hufEncodeWrites
  cases buildTree data <;> rfl

/-! ### The bodies

Each body on the other tables: the body on the old ones, followed by a change of the tables that the command does not
write. -/

theorem bodyHufEncode_withTables (s u : State) : bodyHufEncode (s.withTables u) = bodyHufEncode s := by
  unfold bodyHufEncode
  rw [show (s.withTables u).srcInput = s.srcInput from rfl]
  cases s.srcInput with
  | error c => rfl
  | ok inp =>
    simp only [State.emit_withTables]
    cases s.emit (hufEncodeBody inp).1 with
    | error c => rfl
    | ok t => exact congrArg Except.ok (t.hufEncodeWrites_withTables u _ _)

theorem bodyHufDecode_withTables (s u : State) :
    bodyHufDecode (s.withTables u) = (bodyHufDecode s).map (·.withFreq u) := by
  unfold bodyHufDecode
  rw [show (s.withTables u).srcInput = s.srcInput from rfl]
  cases s.srcInput with
  | error c => rfl
  | ok inp =>
    dsimp only
    cases hufDecodeBody inp with
    | error c => rfl
    | ok x =>
      obtain ⟨out, tree, pad⟩ := x
      simp only [State.emit_withTables]
      cases s.emit out <;> rfl

theorem bodyCompressRle_withTables (s u : State) (inp : Bytes) :
    bodyCompressRle (s.withTables u) inp = (bodyCompressRle s inp).map (·.withTables u) := by
  unfold bodyCompressRle
  rw [show (s.withTables u).unitSize = s.unitSize from rfl, show (s.withTables u).compressExt = s.compressExt from rfl]
  split
  · rfl
  · cases s.compressExt with
    | error c => rfl
    | ok ext =>
      simp only [State.emit_withTables]
      cases s.emit (compressRle inp s.unitSize.toNat ext) <;> rfl

theorem bodyCompressHuf_withTables (s u : State) (inp : Bytes) :
    bodyCompressHuf (s.withTables u) inp = bodyCompressHuf s inp := by
  unfold bodyCompressHuf
  rw [show (s.withTables u).compressExt = s.compressExt from rfl]
  cases s.compressExt with
  | error c => rfl
  | ok ext =>
    simp only [State.emit_withTables]
    cases s.emit (compressHuf inp ext) with
    | error c => rfl
    | ok t => simp only [Except.map, State.hufEncodeWrites_withTables]

theorem bodyCompress_one_withTables (s u : State) : bodyCompress 1#2 (s.withTables u) = bodyCompress 1#2 s := by
  unfold bodyCompress
  rw [show (s.withTables u).srcInput = s.srcInput from rfl]
  cases s.srcInput with
  | error c => rfl
  | ok inp => exact bodyCompressHuf_withTables s u inp

theorem bodyCompress_withTables {m : BitVec 2} (hm : m ≠ 1#2) (s u : State) :
    bodyCompress m (s.withTables u) = (bodyCompress m s).map (·.withTables u) := by
  unfold bodyCompress
  rw [show (s.withTables u).srcInput = s.srcInput from rfl]
  cases s.srcInput with
  | error c => rfl
  | ok inp =>
    dsimp only
    split
    · exact bodyCompressRle_withTables s u inp
    · rfl

/-- The decoder an artifact runs through is that of its tag (R231). -/
theorem extractOne_tag {a e : Bytes} {x : Extracted} (h : extractOne a = .ok (x, e)) :
    (∃ runs n, x = .rle runs n ∧ a.take 3 = tagRle) ∨
      ∃ out tree pad, x = .huf out tree pad ∧ a.take 3 = tagHuf := by
  unfold extractOne at h
  split at h
  · cases h
  · rename_i htag
    split at h
    · cases h
    · split at h
      · cases h
      · split at h
        · cases h
        · rename_i hx
          cases h
          unfold extractBody at hx
          split at hx
          · split at hx
            · cases hx
            · cases hx
              exact .inl ⟨_, _, rfl, ‹_›⟩
          · rename_i hne
            split at hx
            · cases hx
            · cases hx
              exact .inr ⟨_, _, _, rfl, not_not.mp fun hhuf => htag ⟨hne, hhuf⟩⟩

/-- Where SRC holds an input of three bytes or more, the tag the failure column reads is how the input starts. -/
theorem State.srcTag_eq_take {s : State} (hcap : s.srcLen.toNat ≤ s.params.srcCap) (hlen : 3 ≤ s.srcLen.toNat) :
    s.srcTag = s.input.take 3 := by
  rw [State.srcTag, if_pos hlen, State.input]
  refine List.ext_getElem ?_ fun j _ _ => by simp
  rw [List.length_take, State.bufBytes_length, State.bufBytes_length]
  omega

/-- An input that starts with a tag of three bytes is one whose tag the failure column reads. -/
theorem State.srcTag_eq_of_input {s : State} {tag : Bytes} (hcap : s.srcLen.toNat ≤ s.params.srcCap)
    (htag : s.input.take 3 = tag) (hthree : tag.length = 3) : s.srcTag = tag := by
  have hlen : 3 ≤ s.srcLen.toNat := by
    rw [← htag, List.length_take, State.input, State.bufBytes_length] at hthree
    omega
  rw [State.srcTag_eq_take hcap hlen, htag]

/-- What EXTRACT leaves of the tables `u`: FREQ alone where SRC holds the tag HUF, else all of them. -/
def State.extractLeaves (s u : State) : State → State :=
  if s.srcTag = tagHuf then (·.withFreq u) else (·.withTables u)

theorem bodyExtract_withTables (s u : State) :
    bodyExtract (s.withTables u) = (bodyExtract s).map (s.extractLeaves u) := by
  unfold bodyExtract
  rw [show (s.withTables u).srcInput = s.srcInput from rfl]
  obtain ⟨-, hi⟩ | ⟨hcap, hi⟩ := s.srcInput_cases <;> rw [hi]
  · rfl
  · dsimp only
    cases hx : extractOne (s.bufBytes .src 0 s.srcLen.toNat) with
    | error c => rfl
    | ok xe =>
      obtain ⟨x, e⟩ := xe
      dsimp only
      rw [show (s.withTables u).params = s.params from rfl]
      split
      · rfl
      · rw [State.emitExtracted_eq_emit, State.emitExtracted_eq_emit, State.emit_withTables]
        cases s.emit (extractedBytes x) with
        | error c => rfl
        | ok t =>
          obtain ⟨runs, n, rfl, htag⟩ | ⟨out, tree, pad, rfl, htag⟩ := extractOne_tag hx
          · rw [State.extractLeaves, State.srcTag_eq_of_input hcap htag rfl, if_neg (by decide)]
            rfl
          · rw [State.extractLeaves, State.srcTag_eq_of_input hcap htag rfl, if_pos rfl]
            rfl

theorem failExtract_withTables (s u : State) : (s.withTables u).failExtract = s.extractLeaves u s.failExtract := by
  unfold State.failExtract State.extractLeaves
  rw [show (s.withTables u).srcTag = s.srcTag from rfl]
  split
  · rename_i htag
    rw [if_neg (htag ▸ by decide)]
    rfl
  · split <;> rfl

/-! ### The completions -/

/-- A body and a failure write set that follow a change of the state carry it over to the completion. -/
theorem exec_map {i : Instr} {s v t : State} (g : State → State) (hbody : bodyOf i v = (bodyOf i s).map g)
    (hfail : failOf i v = g (failOf i s)) (hsucceed : ∀ x, (g x).succeed = g x.succeed)
    (hraise : ∀ x c, (g x).raise c = g (x.raise c)) (h : exec i s = .next t) : exec i v = .next (g t) := by
  rw [exec_eq_complete] at h ⊢
  obtain ⟨x, hx, rfl⟩ | ⟨c, hc, rfl⟩ := complete_eq_next h
  · rw [hbody, hx, ← hsucceed]
    rfl
  · rw [hbody, hc, ← hraise, ← hfail]
    rfl

theorem exec_congr {i : Instr} {s v : State} (hbody : bodyOf i v = bodyOf i s) (hfail : failOf i v = failOf i s) :
    exec i v = exec i s := by
  rw [exec_eq_complete, exec_eq_complete, hbody]
  cases bodyOf i s with
  | ok t => rfl
  | error c => exact congrArg (fun x : State => Host.Outcome.next (x.raise c)) hfail

theorem exec_hufEncode_withTables (m : BitVec 2) (s u : State) :
    exec (.hufEncode m) (s.withTables u) = exec (.hufEncode m) s :=
  exec_congr (bodyHufEncode_withTables s u) rfl

theorem exec_compress_one_withTables (s u : State) :
    exec (.compress 1#2) (s.withTables u) = exec (.compress 1#2) s :=
  exec_congr (bodyCompress_one_withTables s u) rfl

theorem exec_hufDecode_withTables {m : BitVec 2} {s t : State} (u : State) (h : exec (.hufDecode m) s = .next t) :
    exec (.hufDecode m) (s.withTables u) = .next (t.withFreq u) :=
  exec_map (·.withFreq u) (bodyHufDecode_withTables s u) rfl (fun _ => rfl) (fun _ _ => rfl) h

theorem exec_compress_withTables {m : BitVec 2} {s t : State} (u : State) (hm : m ≠ 1#2)
    (h : exec (.compress m) s = .next t) : exec (.compress m) (s.withTables u) = .next (t.withTables u) := by
  refine exec_map (·.withTables u) (bodyCompress_withTables hm s u) ?_ (fun _ => rfl) (fun _ _ => rfl) h
  simp only [failOf, State.failCompress, if_neg hm]
  split <;> rfl

theorem exec_extract_withTables {m : BitVec 2} {s t : State} (u : State) (h : exec (.extract m) s = .next t) :
    exec (.extract m) (s.withTables u) = .next (s.extractLeaves u t) := by
  refine exec_map _ (bodyExtract_withTables s u) (failExtract_withTables s u) (fun x => ?_) (fun x c => ?_) h <;>
  · unfold State.extractLeaves
    split <;> rfl

/-- What two completions agree in that differ at most in FREQ, where `Wf` fails, or in all tables, where `Wt` fails
too. -/
theorem State.agree_of_withTables {s t u : State} {Wt Wf : Prop}
    (h : t = s ∨ (t = s.withFreq u ∧ ¬Wf) ∨ (t = s.withTables u ∧ ¬Wt ∧ ¬Wf)) :
    s.dst = t.dst ∧ s.dstLen = t.dstLen ∧ s.errcode = t.errcode ∧ s.pad = t.pad ∧ s.nruns = t.nruns ∧
      s.efficiency = t.efficiency ∧ s.ext = t.ext ∧ s.extLen = t.extLen ∧
      (Wt → s.tree = t.tree ∧ s.nleaf = t.nleaf ∧ s.codesValid = t.codesValid) ∧
      (Wf → s.freqValid = t.freqValid ∧ (s.freqValid = true → s.freq = t.freq) ∧
        (s.codesValid = true → s.codeLen = t.codeLen ∧ s.codeBits = t.codeBits)) := by
  obtain rfl | ⟨rfl, hf⟩ | ⟨rfl, ht, hf⟩ := h
  · simp
  · exact ⟨rfl, rfl, rfl, rfl, rfl, rfl, rfl, rfl, fun _ => ⟨rfl, rfl, rfl⟩, fun h => absurd h hf⟩
  · exact ⟨rfl, rfl, rfl, rfl, rfl, rfl, rfl, rfl, fun h => absurd h ht, fun h => absurd h hf⟩

end Sys2Proof.Machine
end

section
open Sys2Proof Sys2Proof.Machine

/-- Settles O42: the completion on the other tables is the completion on the old ones, but for the tables that the
command does not write. -/
theorem compositesReadNoTables : Obligations.CompositesReadNoTables := by
  intro i m s u s' u' hi hu hs hu'
  have hagree : exec i (s.withTables u) = .next u' := hu ▸ hu'
  apply State.agree_of_withTables (u := u)
  obtain rfl | rfl | rfl | rfl := hi
  · rw [exec_hufEncode_withTables, hs] at hagree
    cases hagree
    exact .inl rfl
  · rw [exec_hufDecode_withTables u hs] at hagree
    cases hagree
    exact .inr (.inl ⟨rfl, by simp⟩)
  · by_cases hm : m = 1#2
    · subst hm
      rw [exec_compress_one_withTables, hs] at hagree
      cases hagree
      exact .inl rfl
    · rw [exec_compress_withTables u hm hs] at hagree
      cases hagree
      exact .inr (.inr ⟨rfl, by simpa using hm, by simpa using hm⟩)
  · rw [exec_extract_withTables u hs] at hagree
    cases hagree
    unfold State.extractLeaves
    split
    · exact .inr (.inl ⟨rfl, by simp⟩)
    · rename_i htag
      refine .inr (.inr ⟨rfl, ?_, by simp⟩)
      rintro (h | h | h | ⟨-, hcap, h⟩)
      · cases h
      · cases h
      · cases h
      · exact htag (State.srcTag_eq_of_input hcap h rfl)
end

section
/-! ## The address map and the accesses through it -/

namespace Sys2Proof.Machine

/-! ### Where an access leads -/

theorem Params.legal_iff (p : Params) :
    p.legal = true ↔ 1 ≤ p.srcCap ∧ p.srcCap ≤ 2 ^ 24 ∧ 1 ≤ p.dstCap ∧ p.dstCap ≤ 2 ^ 24 ∧ p.extCap ≤ 256 := by
  simp [Params.legal, and_assoc]

theorem Size.bytes_pos (size : Size) : 0 < size.bytes := by cases size <;> decide

theorem Size.bytes_le (size : Size) : size.bytes ≤ 4 := by cases size <;> decide

theorem Size.bytes_eq_four {size : Size} : size.bytes = 4 ↔ size = .four := by cases size <;> decide

/-- The bases of the buffers are aligned to every size of a transaction (R62, R64). -/
theorem bufferBase_add_mod (w : Buffer) (off : Nat) (size : Size) :
    (bufferBase w + off) % size.bytes = off % size.bytes := by
  cases w <;> cases size <;> simp only [bufferBase, Size.bytes] <;> omega

/-- Legal capacities stay inside the buffers' rows of the map (R5, R62). -/
theorem State.bufferAt_base_add {s : State} {w : Buffer} {off : Nat} (hlegal : s.params.legal = true)
    (hoff : off < s.capOf w) : bufferAt (bufferBase w + off) = some w := by
  obtain ⟨-, hsrc, -, hdst, hext⟩ := (Params.legal_iff _).mp hlegal
  rw [bufferAt_eq_some]
  cases w <;> simp only [State.capOf, bufferBase] at hoff ⊢ <;> simp <;> omega

/-- An aligned access inside the capacity of a buffer reaches its bytes (R62, R64). -/
theorem State.locate_inside_buffer {s : State} {w : Buffer} {off : Nat} {addr : Addr} {size : Size}
    (hlegal : s.params.legal = true) (haddr : addr.toNat = bufferBase w + off) (halign : off % size.bytes = 0)
    (hin : off + size.bytes ≤ s.capOf w) : s.locate addr size = some (.buffer w off) := by
  have hrow : bufferAt (bufferBase w + off) = some w :=
    State.bufferAt_base_add hlegal (by have := size.bytes_pos; omega)
  unfold State.locate
  simp only [haddr, hrow, bufferBase_add_mod, Nat.add_sub_cancel_left]
  exact if_pos ⟨halign, hin⟩

/-- `locate_word` for an offset given as an address. -/
theorem State.locate_addr_word (s : State) {addr : Addr} (hbuf : addr.toNat < 0x4000) (halign : addr.toNat % 4 = 0) :
    s.locate addr .four = wordLoc addr.toNat := by
  simpa using s.locate_word hbuf halign

/-- An admitted access lies inside a buffer, or is an aligned word of the registers and table windows (R62, R64). -/
theorem State.locate_eq_some {s : State} {addr : Addr} {size : Size} {loc : Loc} (h : s.locate addr size = some loc) :
    (∃ w, bufferAt addr.toNat = some w ∧ addr.toNat % size.bytes = 0 ∧
        addr.toNat - bufferBase w + size.bytes ≤ s.capOf w) ∨
      (size = .four ∧ addr.toNat % 4 = 0 ∧ wordLoc addr.toNat = some loc) := by
  unfold State.locate at h
  dsimp only at h
  split at h
  · rename_i w hw
    obtain ⟨⟨halign, hin⟩, -⟩ := Option.ite_none_right_eq_some.mp h
    exact .inl ⟨w, hw, halign, hin⟩
  · obtain ⟨⟨hsize, halign⟩, hword⟩ := Option.ite_none_right_eq_some.mp h
    exact .inr ⟨hsize, halign, hword⟩

/-! ### The words of the registers and table windows -/

/-- The registers fill the words from 0x00 to 0x30 (R62). -/
theorem exists_reg_offset_iff {a : Nat} (halign : a % 4 = 0) : (∃ r ∈ allRegs, r.offset = a) ↔ a ≤ 0x30 := by
  have hle : ∀ r ∈ allRegs, r.offset ≤ 0x30 := by decide
  have hfill : ∀ k < 13, ∃ r ∈ allRegs, r.offset = 4 * k := by decide
  constructor
  · rintro ⟨r, hr, rfl⟩
    exact hle r hr
  · intro ha
    obtain ⟨r, hr, hoff⟩ := hfill (a / 4) (by omega)
    exact ⟨r, hr, by omega⟩

theorem wordLoc_isSome_iff {a : Nat} (halign : a % 4 = 0) :
    (wordLoc a).isSome = true ↔ a ≤ 0x30 ∨ (0x400 ≤ a ∧ a < 0xC00) ∨ (0x2000 ≤ a ∧ a < 0x4000) := by
  unfold wordLoc
  split_ifs
  · simp only [Option.isSome_map, List.find?_isSome, beq_iff_eq, exists_reg_offset_iff halign]
    omega
  all_goals
    simp only [Option.isSome_some, Option.isSome_none, Bool.false_eq_true, true_iff, false_iff]
    omega

/-- The RO words of the map and what a write to them does: nothing (R62, R65). -/
theorem wordLoc_readOnly {a : Nat} (halign : a % 4 = 0)
    (hro : a = 0x00 ∨ a = 0x10 ∨ a = 0x18 ∨ (0x24 ≤ a ∧ a ≤ 0x30) ∨ (0x400 ≤ a ∧ a < 0xC00) ∨
      (0x2000 ≤ a ∧ a < 0x4000)) :
    ∃ loc, wordLoc a = some loc ∧ ∀ (s : State) (size : Size) (v : Word), s.writeLoc size v loc = s := by
  obtain rfl | rfl | rfl | hresult | hwindow | hbits := hro
  · exact ⟨.reg .id, rfl, fun _ _ _ => rfl⟩
  · exact ⟨.reg .errcode, rfl, fun _ _ _ => rfl⟩
  · exact ⟨.reg .dstLen, rfl, fun _ _ _ => rfl⟩
  · obtain rfl | rfl | rfl | rfl : a = 0x24 ∨ a = 0x28 ∨ a = 0x2C ∨ a = 0x30 := by omega
    · exact ⟨.reg .pad, rfl, fun _ _ _ => rfl⟩
    · exact ⟨.reg .nruns, rfl, fun _ _ _ => rfl⟩
    · exact ⟨.reg .efficiency, rfl, fun _ _ _ => rfl⟩
    · exact ⟨.reg .nleaf, rfl, fun _ _ _ => rfl⟩
  · rw [wordLoc, if_neg (by omega)]
    by_cases hfreq : a < 0x800
    · exact ⟨.freq _, if_pos hfreq, fun _ _ _ => rfl⟩
    · rw [if_neg hfreq, if_pos (by omega)]
      exact ⟨.codeLen _, rfl, fun _ _ _ => rfl⟩
  · rw [wordLoc, if_neg (by omega), if_neg (by omega), if_neg (by omega), if_neg (by omega), if_pos (by omega)]
    exact ⟨.codeBits _ _, rfl, fun _ _ _ => rfl⟩

/-! ### Little-endian bytes -/

theorem leValue_lt (bs : Bytes) : leValue bs < 256 ^ bs.length := by
  induction bs with
  | nil => simp [leValue]
  | cons b bs ih =>
    have hb := b.isLt
    rw [leValue, List.length_cons, pow_succ]
    omega

/-- Digit `k` to the base 256 of a little-endian value is byte `k` (R63). -/
theorem leValue_div_mod (bs : Bytes) (k : Nat) (hk : k < bs.length) : leValue bs / 256 ^ k % 256 = bs[k].toNat := by
  induction bs generalizing k with
  | nil => simp at hk
  | cons b bs ih =>
    have hb := b.isLt
    cases k with
    | zero =>
      simp only [leValue, pow_zero, Nat.div_one, List.getElem_cons_zero]
      omega
    | succ k =>
      have htail : (b.toNat + 256 * leValue bs) / 256 = leValue bs := by omega
      rw [leValue, pow_succ', ← Nat.div_div_eq_div_mul, htail, List.getElem_cons_succ]
      exact ih k (by simpa using hk)

/-- The bytes of a read fit the data word: its value is exact. -/
theorem toNat_leValue {bs : Bytes} (hlen : bs.length ≤ 4) : (BitVec.ofNat 32 (leValue bs)).toNat = leValue bs := by
  rw [BitVec.toNat_ofNat]
  refine Nat.mod_eq_of_lt (lt_of_lt_of_le (leValue_lt bs) ?_)
  calc 256 ^ bs.length ≤ 256 ^ 4 := Nat.pow_le_pow_right (by decide) hlen
    _ = 2 ^ 32 := by decide

/-- Byte `k` of up to four bytes is bits 8k+7 .. 8k of their data word (R63). -/
theorem leValue_extractLsb' {bs : Bytes} {k : Nat} (hlen : bs.length ≤ 4) (hk : k < bs.length) :
    bs[k]? = some ((BitVec.ofNat 32 (leValue bs)).extractLsb' (8 * k) 8) := by
  rw [List.getElem?_eq_getElem hk]
  congr 1
  apply BitVec.eq_of_toNat_eq
  rw [BitVec.extractLsb'_toNat, toNat_leValue hlen, Nat.shiftRight_eq_div_pow, pow_mul]
  exact (leValue_div_mod bs k hk).symm

/-- Bytes of a buffer with specified contents are read as those contents. -/
theorem State.bufBytes_of_byte? {s : State} {w : Buffer} {off n : Nat} {bytes : Bytes} (hlen : bytes.length = n)
    (hbytes : ∀ k, k < n → (s.memOf w).byte? (off + k) = bytes[k]?) : s.bufBytes w off n = bytes := by
  apply List.ext_getElem (by simp [hlen])
  intro k hk hk'
  rw [State.bufBytes_getElem]
  apply State.bufByte_of_byte?
  rw [hbytes k (hlen ▸ hk'), List.getElem?_eq_getElem hk']

/-! ### Writes to SRC and EXT -/

/-- A write to SRC or EXT leaves everything but those two buffers alone. -/
theorem State.writeLoc_buffer_frame (s : State) (size : Size) (v : Word) (w : Buffer) (off : Nat) :
    s.writeLoc size v (.buffer w off) =
      { s with src := (s.writeLoc size v (.buffer w off)).src, ext := (s.writeLoc size v (.buffer w off)).ext } := by
  cases w <;> rfl

theorem State.writeLoc_buffer_memOf_self (s : State) (size : Size) (v : Word) {w : Buffer} (off : Nat) (hw : w ≠ .dst) :
    (s.writeLoc size v (.buffer w off)).memOf w = (s.memOf w).write off (leBytes v size.bytes) := by
  cases w with
  | src | ext => rfl
  | dst => exact absurd rfl hw

theorem State.writeLoc_buffer_memOf_other (s : State) (size : Size) (v : Word) {w w' : Buffer} (off : Nat)
    (hw : w' ≠ w) : (s.writeLoc size v (.buffer w off)).memOf w' = s.memOf w' := by
  cases w with
  | src =>
    cases w' with
    | src => exact absurd rfl hw
    | dst | ext => rfl
  | dst => rfl
  | ext =>
    cases w' with
    | ext => exact absurd rfl hw
    | src | dst => rfl

/-- Byte `k` of a word written at `off` stands at `off + k` (R63). -/
theorem Memory.byte?_write_leBytes (m : Memory) (off : Nat) (v : Word) {n k : Nat} (hk : k < n) :
    (m.write off (leBytes v n)).byte? (off + k) = some (v.extractLsb' (8 * k) 8) := by
  rw [Memory.byte?_write, leBytes_length, if_pos (by omega), Nat.add_sub_cancel_left, leBytes_getElem? v n k hk]

theorem Memory.byte?_write_outside (m : Memory) {off i : Nat} {bs : Bytes} (hi : i < off ∨ off + bs.length ≤ i) :
    (m.write off bs).byte? i = m.byte? i := by
  rw [Memory.byte?_write, if_neg (by omega)]

/-! ### An access as a step -/

/-- A read records its answer and spends the draw, and keeps the block's state (R66, R67). -/
theorem step_read_answer {s : State} {addr : Addr} {size : Size} {d : Word} {r : Resp} {rest : List Event}
    (hreset : s.resetIn = false) (hev : s.events = .read addr size :: rest)
    (hans : { s with events := rest }.readAnswer addr size = .read d r) :
    step s = .next { s with events := rest, lastResp := some (.read d r), draws := s.draws + 1 } := by
  rw [step_read hreset hev, State.busRead, hans]

/-- The events still to come do not change what a location reads as. -/
@[simp] theorem State.readLoc_withEvents (s : State) (rest : List Event) (size : Size) (loc : Loc) :
    { s with events := rest }.readLoc size loc = s.readLoc size loc := by
  cases loc with
  | reg r => cases r <;> rfl
  | freq | codeLen | codeBits | buffer => rfl

/-- A write while SEQ = IDLE takes effect on the location it reaches (R66). -/
theorem step_write_idle {s : State} {addr : Addr} {size : Size} {v : Word} {loc : Loc} {rest : List Event}
    (hreset : s.resetIn = false) (hidle : s.seq = .idle) (hloc : s.locate addr size = some loc)
    (hev : s.events = .write addr size v :: rest) :
    step s = .next { { s with events := rest }.writeLoc size v loc with lastResp := some (.write .okay) } := by
  have hb : { s with events := rest }.busy = false := (State.busy_eq_false_iff _).mpr hidle
  rw [step_write hreset hev, State.busWrite_idle hb hloc]

/-- A read that the map refuses is answered ERROR (R61, R66). -/
theorem State.readAnswer_refused {s : State} {addr : Addr} {size : Size} (hloc : s.locate addr size = none) :
    s.readAnswer addr size = .read (Config.freeRead s.draws) .error := by
  simp only [State.readAnswer, hloc]

/-- What a read while SEQ = BUSY answers: any value, but at ID, CTRL and STATUS (R70). -/
theorem State.readAnswer_busy {s : State} {addr : Addr} {size : Size} {loc : Loc} (hb : s.busy = true)
    (hloc : s.locate addr size = some loc) :
    s.readAnswer addr size =
      .read (if readableWhileBusy loc then s.readLoc size loc else lowBytes size.bytes (Config.freeRead s.draws))
        .okay := by
  simp only [State.readAnswer, hloc, hb, Bool.true_and]
  cases readableWhileBusy loc <;> rfl

end Sys2Proof.Machine
end

section
open Sys2Proof Sys2Proof.Machine

/-- Settles O43: an admitted access lies in one of the rows by `locate_eq_some`, and each row leads to a location. -/
theorem mapAdmitsExactlyItsRows : Obligations.MapAdmitsExactlyItsRows := by
  rintro s addr size _ _ hlegal rfl rfl
  constructor
  · intro h
    obtain ⟨loc, hloc⟩ := Option.isSome_iff_exists.mp h
    obtain ⟨w, hrow, halign, hin⟩ | ⟨rfl, halign, hword⟩ := State.locate_eq_some hloc
    · refine .inr ⟨halign, ?_⟩
      obtain ⟨rfl, hlo, -⟩ | ⟨rfl, hlo, -⟩ | ⟨rfl, hlo, -⟩ := bufferAt_eq_some.mp hrow <;>
      · simp only [bufferBase, State.capOf] at hin
        omega
    · exact .inl ⟨rfl, halign, (wordLoc_isSome_iff halign).mp (by simp [hword])⟩
  · rintro (⟨hsize, halign, hrows⟩ | ⟨halign, hrows⟩)
    · obtain rfl := Size.bytes_eq_four.mp hsize
      rw [s.locate_addr_word (by omega) halign]
      exact (wordLoc_isSome_iff halign).mpr hrows
    · have hbuffer : ∃ w off, addr.toNat = bufferBase w + off ∧ off + size.bytes ≤ s.capOf w := by
        obtain ⟨hlo, hhi⟩ | ⟨hlo, hhi⟩ | ⟨hlo, hhi⟩ := hrows
        · exact ⟨.ext, addr.toNat - 0x4000, by simp only [bufferBase]; omega, by simp only [State.capOf]; omega⟩
        · exact ⟨.src, addr.toNat - 0x1000000, by simp only [bufferBase]; omega, by simp only [State.capOf]; omega⟩
        · exact ⟨.dst, addr.toNat - 0x2000000, by simp only [bufferBase]; omega, by simp only [State.capOf]; omega⟩
      obtain ⟨w, off, haddr, hin⟩ := hbuffer
      rw [haddr, bufferBase_add_mod] at halign
      rw [State.locate_inside_buffer hlegal haddr halign hin]
      rfl

/-- Settles O44: by the answers of the bus to an offset that leads nowhere. -/
theorem refusedAccessChangesNothing : Obligations.RefusedAccessChangesNothing := by
  intro s addr size v rest hreset hidle hnone
  have hb : { s with events := rest }.busy = false := (State.busy_eq_false_iff _).mpr hidle
  refine ⟨fun hev => ?_, fun hev => ⟨_, step_read_answer hreset hev (State.readAnswer_refused hnone)⟩⟩
  rw [step_write hreset hev, State.busWrite_refused hb hnone]

/-- Settles O45: the step is the write of the word's little-endian bytes at the offset. -/
theorem bufferWritesAreLittleEndian : Obligations.BufferWritesAreLittleEndian := by
  intro s w off addr size v rest hreset hidle hlegal hw haddr halign hin hev
  have hloc := State.locate_inside_buffer hlegal haddr halign hin
  have hself := { s with events := rest }.writeLoc_buffer_memOf_self size v off hw
  refine ⟨_, step_write_idle hreset hidle hloc hev, ?_, fun k hk => ?_, fun i hi => ?_, fun w' hw' => ?_⟩
  · rw [State.writeLoc_buffer_frame]
  · exact (congrArg (·.byte? (off + k)) hself).trans (Memory.byte?_write_leBytes _ off v hk)
  · exact (congrArg (·.byte? i) hself).trans (Memory.byte?_write_outside _ (by rwa [leBytes_length]))
  · exact { s with events := rest }.writeLoc_buffer_memOf_other size v off hw'

/-- Settles O46: the data of the read is the little-endian value of the specified bytes. -/
theorem bufferReadsAreLittleEndian : Obligations.BufferReadsAreLittleEndian := by
  intro s w off addr size bytes rest hreset hidle hlegal haddr halign hin hlen hbytes hev
  have hb : { s with events := rest }.busy = false := (State.busy_eq_false_iff _).mpr hidle
  have hans : { s with events := rest }.readAnswer addr size = .read (BitVec.ofNat 32 (leValue bytes)) .okay := by
    rw [State.readAnswer_idle hb (State.locate_inside_buffer hlegal haddr halign hin), State.readLoc_withEvents,
      State.readLoc, State.bufBytes_of_byte? hlen hbytes]
  have hfour : bytes.length ≤ 4 := hlen ▸ size.bytes_le
  refine ⟨_, step_read_answer hreset hev hans, fun k hk => leValue_extractLsb' hfour (hlen ▸ hk), ?_⟩
  rw [toNat_leValue hfour, ← hlen]
  exact leValue_lt bytes

/-- Settles O47: each RO row of the map leads to a location at which a write changes nothing. -/
theorem readOnlyLocationsIgnoreWrites : Obligations.ReadOnlyLocationsIgnoreWrites := by
  rintro s addr size v rest _ hreset hidle hlegal rfl hro hev
  have hkept : ∃ loc, s.locate addr size = some loc ∧
      ∀ (u : State) (size : Size) (v : Word), u.writeLoc size v loc = u := by
    obtain ⟨rfl, halign, hword⟩ | ⟨halign, hlo, hhi⟩ := hro
    · rw [s.locate_addr_word (by omega) halign]
      exact wordLoc_readOnly halign hword
    · have haddr : addr.toNat = bufferBase .dst + (addr.toNat - 0x2000000) := by simp only [bufferBase]; omega
      rw [haddr, bufferBase_add_mod] at halign
      exact ⟨_, State.locate_inside_buffer hlegal haddr halign (by simp only [State.capOf]; omega), fun _ _ _ => rfl⟩
  obtain ⟨loc, hloc, hwrite⟩ := hkept
  rw [step_write_idle hreset hidle hloc hev, hwrite]

/-- Settles O51: by the answers of the bus in BUSY; ID, CTRL and STATUS are the locations that are readable then. -/
theorem busyIgnoresOtherAccesses : Obligations.BusyIgnoresOtherAccesses := by
  intro s addr size v rest loc hreset hbusy hloc
  have hb : { s with events := rest }.busy = true := State.busy_of_busy hbusy
  constructor
  · intro hctrl hev
    have hother : { s with events := rest }.locate addr size ≠ some (.reg .ctrl) :=
      fun h => hctrl (Option.some.inj (hloc.symm.trans h))
    rw [step_write hreset hev, State.busWrite_busy hb hother]
  · intro hev
    refine ⟨_, step_read_answer hreset hev (State.readAnswer_busy hb hloc), ?_, ?_, ?_⟩ <;>
    · rintro rfl
      rfl
end

section
/-! ## The CMD word: decoder and encoder -/

namespace Sys2Proof

/-! ### The opcode map -/

/-- The OPCODEs that are legal are those of the rows of the map (R92). -/
theorem legalOpcode_iff (op : BitVec 8) : legalOpcode op = true ↔ ∃ row ∈ opcodeTable, row.opcode = op := by
  simp only [legalOpcode, opcodeTable, Bool.or_eq_true, Bool.and_eq_true, beq_iff_eq, decide_eq_true_eq,
    List.exists_mem_cons_iff, List.not_mem_nil, false_and, exists_false, or_false]
  bv_omega

/-- The command of a row has the row's OPCODE, and the METHOD it is given. -/
theorem opcodeTable_fields :
    ∀ row ∈ opcodeTable, ∀ m, opcodeOf (row.command m) = row.opcode ∧ methodOf (row.command m) = m := by
  simp only [opcodeTable, List.forall_mem_cons, opcodeOf, methodOf, and_self, implies_true, true_and]
  exact List.forall_mem_nil _

/-- The row of the map with the OPCODE of a command gives the command back from its METHOD. -/
theorem opcodeTable_find (i : Instr) :
    ∃ row, opcodeTable.find? (fun row => row.opcode == opcodeOf i) = some row ∧ row.command (methodOf i) = i := by
  cases i <;> exact ⟨_, rfl, rfl⟩

/-! ### What the decoder answers -/

/-- The decoder takes the row that has the word's OPCODE, or rejects the word by its OPCODE where there is none. -/
theorem decode_cases (w : Word) :
    (∃ row ∈ opcodeTable, row.opcode = opcodeField w ∧ decode w = .ok (row.command (methodField w))) ∨
      (legalOpcode (opcodeField w) = false ∧ decode w = .error (.illegalOpcode (opcodeField w))) := by
  unfold decode
  split
  · rename_i row hrow
    exact .inl ⟨row, List.mem_of_find?_eq_some hrow, by simpa using List.find?_some hrow, rfl⟩
  · rename_i hnone
    refine .inr ⟨Bool.eq_false_iff.mpr fun hlegal => ?_, rfl⟩
    obtain ⟨row, hmem, hop⟩ := (legalOpcode_iff _).mp hlegal
    exact List.find?_eq_none.mp hnone row hmem (beq_iff_eq.mpr hop)

/-- A word decodes to a command exactly where its OPCODE and METHOD are the command's (R92, R94). -/
theorem decode_eq_ok_iff {w : Word} {i : Instr} :
    decode w = .ok i ↔ opcodeField w = opcodeOf i ∧ methodField w = methodOf i := by
  constructor
  · intro h
    obtain ⟨row, hmem, hop, hdec⟩ | ⟨-, hdec⟩ := decode_cases w <;> rw [hdec] at h
    · cases h
      obtain ⟨hopcode, hmethod⟩ := opcodeTable_fields row hmem (methodField w)
      exact ⟨hop.symm.trans hopcode.symm, hmethod.symm⟩
    · cases h
  · rintro ⟨hop, hmethod⟩
    obtain ⟨row, hfind, hrow⟩ := opcodeTable_find i
    rw [decode, hop, hmethod, hfind]
    exact congrArg Except.ok hrow

/-- A word with an OPCODE of the map decodes to a command (R92). -/
theorem decode_of_legalOpcode {w : Word} (h : legalOpcode (opcodeField w) = true) : ∃ i, decode w = .ok i := by
  obtain ⟨row, -, -, hdec⟩ | ⟨hillegal, -⟩ := decode_cases w
  · exact ⟨_, hdec⟩
  · rw [h] at hillegal
    cases hillegal

/-- A word with an OPCODE outside the map is rejected by it (R93 (a)). -/
theorem decode_of_illegalOpcode {w : Word} (h : legalOpcode (opcodeField w) = false) :
    decode w = .error (.illegalOpcode (opcodeField w)) := by
  obtain ⟨row, hmem, hop, -⟩ | ⟨-, hdec⟩ := decode_cases w
  · rw [(legalOpcode_iff _).mpr ⟨row, hmem, hop⟩] at h
    cases h
  · exact hdec

/-! ### The encoder -/

theorem encode_fields (i : Instr) : Laws.EncodeFields.Statement i := by
  cases i with
  | pack m => exact Laws.EncodeFields.pack m
  | unpack m => exact Laws.EncodeFields.unpack m
  | hufBuild m => exact Laws.EncodeFields.hufBuild m
  | hufCodes m => exact Laws.EncodeFields.hufCodes m
  | hufSerialize m => exact Laws.EncodeFields.hufSerialize m
  | hufDeserialize m => exact Laws.EncodeFields.hufDeserialize m
  | hufEncode m => exact Laws.EncodeFields.hufEncode m
  | hufDecode m => exact Laws.EncodeFields.hufDecode m
  | rleEncodeChunk m => exact Laws.EncodeFields.rleEncodeChunk m
  | rleDecodeChunk m => exact Laws.EncodeFields.rleDecodeChunk m
  | rleEncode m => exact Laws.EncodeFields.rleEncode m
  | rleDecode m => exact Laws.EncodeFields.rleDecode m
  | compress m => exact Laws.EncodeFields.compress m
  | extract m => exact Laws.EncodeFields.extract m

theorem wellFormedWord_iff (w : Word) :
    wellFormedWord w = true ↔ legalOpcode (opcodeField w) = true ∧ reservedBitsZero w = true :=
  Bool.and_eq_true_iff

/-- The mask of the reserved bits has every bit from 10 on (R90). -/
theorem reservedMask_getLsbD {j : Nat} (hlo : 10 ≤ j) (hhi : j < 32) : (0xFFFFFC00#32).getLsbD j = true := by
  revert j
  decide

theorem getLsbD_of_reservedBitsZero {w : Word} (h : reservedBitsZero w = true) {j : Nat} (hlo : 10 ≤ j)
    (hhi : j < 32) : w.getLsbD j = false := by
  have hbit := congrArg (·.getLsbD j) (beq_iff_eq.mp h)
  simpa [reservedMask_getLsbD hlo hhi] using hbit

/-- A word with its reserved bits 0 is its METHOD and its OPCODE put together (R90). -/
theorem append_fields_of_reservedBitsZero {w : Word} (h : reservedBitsZero w = true) :
    (0#22 ++ methodField w) ++ opcodeField w = w := by
  refine BitVec.eq_of_getLsbD_eq fun j hj => ?_
  rw [BitVec.getLsbD_append, BitVec.getLsbD_append]
  split
  · rename_i hop
    simp [opcodeField, hop]
  · split
    · rename_i hop hmethod
      simp [methodField, hmethod, Nat.add_sub_of_le (Nat.le_of_not_lt hop)]
    · rw [getLsbD_of_reservedBitsZero h (by omega) hj, BitVec.getLsbD_zero]

/-- A word with its reserved bits 0 is the word of the command it decodes to. -/
theorem encode_of_decode {w : Word} {i : Instr} (hres : reservedBitsZero w = true) (h : decode w = .ok i) :
    encode i = w := by
  obtain ⟨hop, hmethod⟩ := decode_eq_ok_iff.mp h
  rw [encode, ← hop, ← hmethod, append_fields_of_reservedBitsZero hres]

end Sys2Proof
end

section
/-! ## The turn of the block, and what every command answers -/

namespace Sys2Proof.Machine

/-! ### The turn of the block -/

theorem step_of_no_events {s : State} (h : s.events = []) : step s = blockTurn s := by
  simp only [step, stepState, h]

theorem step_block {s : State} {rest : List Event} (h : s.events = .block :: rest) :
    step s = blockTurn { s with events := rest } :=
  stepState_cons h

theorem blockTurn_idle {s : State} (h : s.seq = .idle) : blockTurn s = .next s := by
  simp only [blockTurn, h]

theorem blockTurn_command {s : State} {i : Instr} (hbusy : s.seq = .busy) (hdec : decode s.cmd = .ok i) :
    blockTurn s = exec i s := by
  simp only [blockTurn, hbusy, hdec]

/-! ### Completion -/

/-- Every command completes in a next state (R97). -/
theorem exec_total (i : Instr) (s : State) : ∃ t, exec i s = .next t := by
  rw [exec_eq_complete]
  obtain ⟨t, -, h⟩ | ⟨c, -, h⟩ := complete_cases (failOf i) s (bodyOf i s) <;> exact ⟨_, h⟩

/-- A command that starts with ERR clear ends with ERR set exactly where ERRCODE is not 0 (R24, R255). -/
theorem exec_err_iff {i : Instr} {s t : State} (h : exec i s = .next t) (herr : s.err = false) :
    t.err = true ↔ t.errcode ≠ 0 := by
  obtain ⟨-, -, ⟨hcode, hset⟩ | ⟨c, hcode, hset⟩⟩ := exec_status h
  · simp [hcode, hset, herr]
  · exact iff_of_true hset (hcode ▸ c.word_range.2)

/-! ### CAP_SRC -/

/-- A command that reads SRC raises CAP_SRC before anything else where SRC_LEN is beyond SRC_CAP (R95). -/
theorem bodyOf_capSrc {i : Instr} {s : State} (hreads : readsSrc i = true) (h : s.params.srcCap < s.srcLen.toNat) :
    bodyOf i s = .error .capSrc := by
  have hinp := State.srcInput_capSrc h
  cases i with
  | pack _ => simp only [bodyOf, bodyPack, hinp]
  | unpack _ => simp only [bodyOf, bodyUnpack, hinp]
  | hufBuild _ => simp only [bodyOf, bodyHufBuild, hinp]
  | hufCodes _ | hufSerialize _ => cases hreads
  | hufDeserialize _ => simp only [bodyOf, bodyHufDeserialize, hinp]
  | hufEncode _ => simp only [bodyOf, bodyHufEncode, hinp]
  | hufDecode _ => simp only [bodyOf, bodyHufDecode, hinp]
  | rleEncodeChunk _ => simp only [bodyOf, bodyRleEncodeChunk, hinp]
  | rleDecodeChunk _ => simp only [bodyOf, bodyRleDecodeChunk, hinp]
  | rleEncode _ => simp only [bodyOf, bodyRleEncode, hinp]
  | rleDecode _ => simp only [bodyOf, bodyRleDecode, hinp]
  | compress _ => simp only [bodyOf, bodyCompress, hinp]
  | extract _ => simp only [bodyOf, bodyExtract, hinp]

end Sys2Proof.Machine
end

section
open Sys2Proof Sys2Proof.Machine

/-- Settles O1: the decoder reads OPCODE and METHOD alone, and the fields of a command's word are the command's. -/
theorem decodeInvertsEncode : Obligations.DecodeInvertsEncode := by
  intro i
  obtain ⟨hwf, hop, hmethod⟩ := encode_fields i
  exact ⟨decode_eq_ok_iff.mpr ⟨hop, hmethod⟩, ((wellFormedWord_iff _).mp hwf).2⟩

/-- Settles O2: the word of a decoded command is put together from the fields of the word it came from. -/
theorem encodeInvertsDecode : Obligations.EncodeInvertsDecode := by
  refine fun w => ⟨fun hwf => ?_, decode_of_illegalOpcode⟩
  obtain ⟨hlegal, hres⟩ := (wellFormedWord_iff w).mp hwf
  obtain ⟨i, hdec⟩ := decode_of_legalOpcode hlegal
  exact ⟨i, hdec, encode_of_decode hres hdec⟩

/-- Settles O38: by the status of every completion; from a legal BUSY state ERR is clear at the start. -/
theorem everyCommandCompletes : Obligations.EveryCommandCompletes := by
  intro i s
  obtain ⟨t, h⟩ := exec_total i s
  obtain ⟨hidle, hdone, hend⟩ := exec_status h
  exact ⟨t, h, hidle, hdone, hend, fun hbusy hs => exec_err_iff h (State.handshakeOk_busy hs hbusy).1⟩

/-- Settles O39: the body raises CAP_SRC, and a body that raises fails the command with exactly its column. -/
theorem srcLenBeyondCapacityIsCapSrc : Obligations.SrcLenBeyondCapacityIsCapSrc :=
  fun _ _ hreads h => failsWith_of_error (bodyOf_capSrc hreads h)

/-- Settles O3: the OPCODE and METHOD of each word are those of its command; 0x00 is no OPCODE of the map. -/
theorem sampleWordsDecode : Obligations.SampleWordsDecode := by
  refine ⟨?_, ?_, ?_, ?_, ?_, decode_of_illegalOpcode (by decide)⟩ <;> exact decode_eq_ok_iff.mpr (by decide)

/-- Settles O4: by the turn of the block in BUSY and in IDLE, at the step where no event is left and at a `.block`
event. -/
theorem stepRunsDecodedCommand : Obligations.StepRunsDecodedCommand := by
  refine ⟨fun s i hbusy hdec => ⟨fun hev => ?_, fun rest hev => ?_⟩, fun s hidle => ⟨fun hev => ?_, fun rest hev => ?_⟩⟩
  · rw [step_of_no_events hev, blockTurn_command hbusy hdec]
  · exact (step_block hev).trans (blockTurn_command hbusy hdec)
  · rw [step_of_no_events hev, blockTurn_idle hidle]
  · exact (step_block hev).trans (blockTurn_idle hidle)
end

section
/-! ## The bit-packer

The bits of a packed sequence are read back byte by byte: `bytes.flatMap bin8` is the logical bit sequence of a byte
sequence, and packing is characterised by it (R130, R132). -/

namespace Sys2Proof.Machine

/-! ### Bits and bytes -/

@[simp] theorem bin8_length (b : Byte) : (bin8 b).length = 8 := rfl

/-- Position `i` of a byte, most significant first, is its bit `7 - i` (R14). -/
theorem bin8_getElem? (b : Byte) {i : Nat} (hi : i < 8) : (bin8 b)[i]? = some (b.getLsbD (7 - i)) := by
  interval_cases i <;> rfl

/-- The last bit of a sequence is the lowest bit of the number it spells. -/
theorem natOfBits_concat (s : Bits) (bit : Bool) : natOfBits (s ++ [bit]) = Nat.bit bit (natOfBits s) := by
  simp [natOfBits, Nat.bit_val]

theorem natOfBits_testBit (s : Bits) (i : Nat) : (natOfBits s).testBit i = s.reverse[i]?.getD false := by
  induction s using List.reverseRecOn generalizing i with
  | nil => simp [natOfBits]
  | append_singleton s bit ih =>
    rw [natOfBits_concat, List.reverse_concat]
    cases i with
    | zero => simp
    | succ i => rw [Nat.testBit_bit_succ, ih, List.getElem?_cons_succ]

/-- `bin8` inverts `byte8` on eight bits (R14). -/
theorem bin8_byte8 {s : Bits} (hs : s.length = 8) : bin8 (byte8 s) = s := by
  apply List.ext_getElem (by simp [hs])
  intro i hi _
  rw [bin8_length] at hi
  apply Option.some.inj
  rw [← List.getElem?_eq_getElem, bin8_getElem? _ hi, byte8, BitVec.getLsbD_ofNat, natOfBits_testBit,
    List.getElem?_reverse (by omega), show s.length - 1 - (7 - i) = i by omega,
    List.getElem?_eq_getElem (by omega)]
  simp
  omega

theorem flatMap_bin8_length (p : Bytes) : (p.flatMap bin8).length = 8 * p.length := by
  simp [List.length_flatMap, Nat.mul_comm]

/-- Bit `i` of a byte sequence is bit `7 - i % 8` of its byte `i / 8` (R130, R132). -/
theorem flatMap_bin8_getElem? (p : Bytes) (i : Nat) :
    (p.flatMap bin8)[i]? = (p[i / 8]?).map fun b => b.getLsbD (7 - i % 8) := by
  induction p generalizing i with
  | nil => rfl
  | cons b p ih =>
    rw [List.flatMap_cons]
    by_cases hi : i < 8
    · rw [List.getElem?_append_left hi, bin8_getElem? b hi, Nat.div_eq_of_lt hi, Nat.mod_eq_of_lt hi]
      rfl
    · obtain ⟨j, rfl⟩ := Nat.exists_eq_add_of_le' (Nat.le_of_not_lt hi)
      rw [List.getElem?_append_right (by simp), bin8_length, Nat.add_sub_cancel, ih, Nat.add_div_right j (by omega),
        Nat.add_mod_right, List.getElem?_cons_succ]

/-- Whole groups of eight bits, each made a byte, keep their bits. -/
theorem flatMap_bin8_map_byte8_pieces {fuel : Nat} {s : Bits} (hgroups : 8 ∣ s.length) (hfuel : s.length ≤ 8 * fuel) :
    ((pieces 8 fuel s).map byte8).flatMap bin8 = s := by
  induction fuel generalizing s with
  | zero => simp [pieces, List.length_eq_zero_iff.mp (Nat.le_zero.mp hfuel)]
  | succ fuel ih =>
    by_cases hs : s = []
    · simp [hs, pieces]
    · have hpos := List.length_pos_of_ne_nil hs
      have hrest : ((pieces 8 fuel (s.drop 8)).map byte8).flatMap bin8 = s.drop 8 :=
        ih (by rw [List.length_drop]; omega) (by rw [List.length_drop]; omega)
      have hgroup : bin8 (byte8 (s.take 8)) = s.take 8 := bin8_byte8 (by rw [List.length_take]; omega)
      simp only [pieces, List.isEmpty_iff, hs, if_false, List.map_cons, List.flatMap_cons, hgroup, hrest,
        List.take_append_drop]

/-! ### Packing -/

/-- The pad bits fill the last byte (R130). -/
theorem padCount_eq (n : Nat) : padCount n = 8 * ((n + 7) / 8) - n := by
  unfold padCount
  omega

/-- The bits of the packed bytes are the bits and the pad bits, which are 0 (R130). -/
theorem packBits_flatMap_bin8 (bits : Bits) :
    (packBits bits).1.flatMap bin8 = bits ++ List.replicate (padCount bits.length) false := by
  apply flatMap_bin8_map_byte8_pieces <;> rw [List.length_append, List.length_replicate, padCount_eq] <;> omega

theorem packBits_length (bits : Bits) : (packBits bits).1.length = (bits.length + 7) / 8 := by
  have h := congrArg List.length (packBits_flatMap_bin8 bits)
  rw [flatMap_bin8_length, List.length_append, List.length_replicate, padCount_eq] at h
  omega

@[simp] theorem packed_length (bits : Bits) : (packed bits).length = (bits.length + 7) / 8 + 1 := by
  simp [packed, packBits_length]

/-- Bit `7 - i % 8` of packed byte `i / 8` is bit `i` of the input, or a pad bit (R130). -/
theorem packed_getLsbD {bits : Bits} {i : Nat} {bit : Bool}
    (h : (bits ++ List.replicate (padCount bits.length) false)[i]? = some bit) :
    ∃ b, (packed bits)[i / 8]? = some b ∧ b.getLsbD (7 - i % 8) = bit := by
  rw [← packBits_flatMap_bin8, flatMap_bin8_getElem?, Option.map_eq_some_iff] at h
  obtain ⟨b, hb, hbit⟩ := h
  exact ⟨b, (List.getElem?_append_left (List.getElem?_eq_some_iff.mp hb).1).trans hb, hbit⟩

theorem packed_trailer (bits : Bits) : (packed bits)[(bits.length + 7) / 8]? = some (digit (padCount bits.length)) := by
  rw [← packBits_length]
  exact List.getElem?_concat_length

/-! ### Unpacking -/

theorem digit_eq_add (d : Nat) : digit d = 0x30#8 + BitVec.ofNat 8 d := BitVec.ofNat_add 0x30 d

theorem digit_range {d : Nat} (hd : d ≤ 7) :
    0x30#8 ≤ digit d ∧ digit d ≤ 0x37#8 ∧ (digit d).toNat - 0x30 = d := by
  interval_cases d <;> decide

/-- The check of the trailer, and of the pad bits against the data bits (R132). -/
theorem unpackBits_concat (data : Bytes) (t : Byte) :
    unpackBits (data ++ [t]) =
      if ¬(0x30#8 ≤ t ∧ t ≤ 0x37#8) then .error .fmtPad
      else if 8 * data.length < t.toNat - 0x30 then .error .fmtPad
      else .ok ((data.flatMap bin8).take (8 * data.length - (t.toNat - 0x30)), t.toNat - 0x30) := by
  simp [unpackBits]

/-- Data bytes and a pad digit unpack to the bits before the pad bits (R132). -/
theorem unpackBits_concat_digit {data : Bytes} {pad : Nat} (hdigit : pad ≤ 7) (hpad : pad ≤ 8 * data.length) :
    unpackBits (data ++ [digit pad]) = .ok ((data.flatMap bin8).take (8 * data.length - pad), pad) := by
  obtain ⟨hlo, hhi, hval⟩ := digit_range hdigit
  rw [unpackBits_concat, hval, if_neg (not_not.mpr ⟨hlo, hhi⟩), if_neg (by omega)]

theorem unpackBits_concat_of_not_digit {data : Bytes} {t : Byte} (h : t < 0x30#8 ∨ 0x37#8 < t) :
    unpackBits (data ++ [t]) = .error .fmtPad := by
  rw [unpackBits_concat, if_pos]
  rintro ⟨hlo, hhi⟩
  exact h.elim (BitVec.not_lt.mpr hlo) (BitVec.not_lt.mpr hhi)

/-- A trailer alone holds no bits to discard (R132). -/
theorem unpackBits_singleton {t : Byte} (h : 0x30#8 < t) : unpackBits [t] = .error .fmtPad := by
  have hpad : 8 * ([] : Bytes).length < t.toNat - 0x30 := Nat.sub_pos_of_lt (BitVec.lt_def.mp h)
  rw [← List.nil_append [t], unpackBits_concat, if_pos hpad, ite_self]

/-- Every input that R132 rejects: no trailer, a trailer that is no digit 0..7, pad bits without a data byte. -/
theorem unpackBits_of_malformed {p : Bytes}
    (h : p = [] ∨ (∃ data b, p = data ++ [b] ∧ (b < 0x30#8 ∨ 0x37#8 < b)) ∨ ∃ b, p = [b] ∧ 0x30#8 < b) :
    unpackBits p = .error .fmtPad := by
  obtain rfl | ⟨data, b, rfl, hb⟩ | ⟨b, rfl, hb⟩ := h
  · rfl
  · exact unpackBits_concat_of_not_digit hb
  · exact unpackBits_singleton hb

/-- Unpacking inverts packing (R135). -/
theorem unpackBits_packed (bits : Bits) : unpackBits (packed bits) = .ok (bits, padCount bits.length) := by
  have hlen : 8 * (packBits bits).1.length - padCount bits.length = bits.length := by
    rw [packBits_length, padCount_eq]
    omega
  have hpad : padCount bits.length ≤ 8 * (packBits bits).1.length := by
    rw [packBits_length, padCount_eq]
    omega
  calc unpackBits (packed bits)
    _ = .ok (((packBits bits).1.flatMap bin8).take (8 * (packBits bits).1.length - padCount bits.length),
          padCount bits.length) := unpackBits_concat_digit (padCount_le _) hpad
    _ = .ok (bits, padCount bits.length) := by rw [hlen, packBits_flatMap_bin8, List.take_left]

/-! ### The bodies of PACK and UNPACK -/

@[simp] theorem State.input_length (s : State) : s.input.length = s.srcLen.toNat := s.bufBytes_length .src 0 _

theorem State.srcInput_eq_input {s : State} (h : s.srcLen.toNat ≤ s.params.srcCap) : s.srcInput = .ok s.input :=
  State.srcInput_ok h

theorem all_isBitSymbol_iff (p : Bytes) : p.all isBitSymbol = true ↔ ∀ b ∈ p, b = 0x30#8 ∨ b = 0x31#8 := by
  simp [isBitSymbol, asciiZero, asciiOne]

/-- PACK of an input within SRC_CAP (R133). -/
theorem bodyPack_eq {s : State} (hcap : s.srcLen.toNat ≤ s.params.srcCap) :
    bodyPack s =
      if ∀ b ∈ s.input, b = 0x30#8 ∨ b = 0x31#8 then
        (s.emit (packed (s.input.map symbolBit))).map fun t =>
          { t with pad := BitVec.ofNat 32 (padCount s.srcLen.toNat) }
      else .error .fmtBitSymbol := by
  simp only [bodyPack, State.srcInput_eq_input hcap, all_isBitSymbol_iff, State.input_length]
  cases s.emit (packed (s.input.map symbolBit)) <;> rfl

/-- UNPACK of an input within SRC_CAP that unpacks (R134). -/
theorem bodyUnpack_of_ok {s : State} {bits : Bits} {pad : Nat} (hcap : s.srcLen.toNat ≤ s.params.srcCap)
    (h : unpackBits s.input = .ok (bits, pad)) :
    bodyUnpack s = (s.emit (bits.map bitSymbol)).map fun t => { t with pad := BitVec.ofNat 32 pad } := by
  simp only [bodyUnpack, State.srcInput_eq_input hcap, h]
  cases s.emit (bits.map bitSymbol) <;> rfl

theorem bodyUnpack_of_error {s : State} {c : Cause} (hcap : s.srcLen.toNat ≤ s.params.srcCap)
    (h : unpackBits s.input = .error c) : bodyUnpack s = .error c := by
  simp only [bodyUnpack, State.srcInput_eq_input hcap, h]

/-! ### Delivery and completion -/

@[simp] theorem State.deliver_dst_byte? (s : State) (out : Bytes) (i : Nat) : (s.deliver out).dst.byte? i = out[i]? :=
  Memory.byte?_ofBytes out i

/-- A register holds the length of every output that fits DST (R5). -/
theorem State.deliver_dstLen_toNat {s : State} {out : Bytes} (hlegal : s.params.legal = true)
    (hfit : out.length ≤ s.params.dstCap) : (s.deliver out).dstLen.toNat = out.length := by
  obtain ⟨-, -, -, hdst, -⟩ := (Params.legal_iff _).mp hlegal
  exact Nat.mod_eq_of_lt (by omega)

/-- PAD holds every pad count (R31). -/
theorem toNat_ofNat_pad {pad : Nat} (h : pad ≤ 7) : (BitVec.ofNat 32 pad).toNat = pad :=
  Nat.mod_eq_of_lt (by omega)

/-- PACK of bit symbols whose packed form fits DST (R133). -/
theorem exec_pack_ok {m : BitVec 2} {s : State} (hcap : s.srcLen.toNat ≤ s.params.srcCap)
    (hsym : ∀ b ∈ s.input, b = 0x30#8 ∨ b = 0x31#8)
    (hfit : (packed (s.input.map symbolBit)).length ≤ s.params.dstCap) :
    exec (.pack m) s = .next
      { s.deliver (packed (s.input.map symbolBit)) with pad := BitVec.ofNat 32 (padCount s.srcLen.toNat) }.succeed := by
  apply exec_of_ok
  rw [bodyOf, bodyPack_eq hcap, if_pos hsym, State.emit_ok hfit]
  rfl

/-- UNPACK of an input that unpacks to bits whose symbols fit DST (R134). -/
theorem exec_unpack_ok {m : BitVec 2} {s : State} {bits : Bits} {pad : Nat} (hcap : s.srcLen.toNat ≤ s.params.srcCap)
    (h : unpackBits s.input = .ok (bits, pad)) (hfit : (bits.map bitSymbol).length ≤ s.params.dstCap) :
    exec (.unpack m) s = .next { s.deliver (bits.map bitSymbol) with pad := BitVec.ofNat 32 pad }.succeed := by
  apply exec_of_ok
  rw [bodyOf, bodyUnpack_of_ok hcap h, State.emit_ok hfit]
  rfl

/-- The bit of input symbol `i` (R14). -/
theorem State.input_map_symbolBit_getElem? {s : State} {i : Nat} (hi : i < s.srcLen.toNat) :
    (s.input.map symbolBit)[i]? = some (s.input[i]? == some 0x31#8) := by
  rw [← s.input_length] at hi
  rw [List.getElem?_map, List.getElem?_eq_getElem hi]
  rfl

end Sys2Proof.Machine
end

section
open Sys2Proof Sys2Proof.Machine

/-- Settles O8: the bits of the packed bytes are the bits and the pad bits, and unpacking discards the pad bits. -/
theorem unpackInvertsPack : Obligations.UnpackInvertsPack :=
  fun bits => ⟨unpackBits_packed bits, padCount_le _⟩

/-- Settles O6: PACK delivers the packed input bits, and the bits of the packed bytes are the input bits and the pad
bits. -/
theorem packWritesPackedBits : Obligations.PackWritesPackedBits := by
  rintro m s n hlegal hcap rfl hsym hfit
  have hlen : (s.input.map symbolBit).length = s.srcLen.toNat := by simp
  have hout : (packed (s.input.map symbolBit)).length = (s.srcLen.toNat + 7) / 8 + 1 := by rw [packed_length, hlen]
  have hdst := hout.trans_le hfit
  have hpad := toNat_ofNat_pad (padCount_le s.srcLen.toNat)
  refine ⟨_, exec_pack_ok hcap hsym hdst, rfl, (State.deliver_dstLen_toNat hlegal hdst).trans hout,
    hpad.trans (padCount_eq _), fun i hi => ?_, fun i hlo hhi => ?_, ?_⟩
  all_goals simp only [State.succeed_dst, State.succeed_pad, State.deliver_dst_byte?]
  · apply packed_getLsbD
    rw [List.getElem?_append_left (hlen ▸ hi), State.input_map_symbolBit_getElem? hi]
  · apply packed_getLsbD
    rw [List.getElem?_append_right (hlen ▸ hlo), hlen, List.getElem?_replicate, if_pos (by rw [padCount_eq]; omega)]
  · have htrailer := packed_trailer (s.input.map symbolBit)
    rw [hlen] at htrailer
    rw [htrailer, digit_eq_add, BitVec.setWidth_ofNat_of_le (by decide)]

/-- Settles O7: UNPACK delivers the symbols of the unpacked bits, and those are the bits of the data bytes before the
pad bits. -/
theorem unpackWritesBitSymbols : Obligations.UnpackWritesBitSymbols := by
  intro m s data pad hlegal hcap hinp hdigit hpad hfit
  have hunpack : unpackBits s.input = .ok ((data.flatMap bin8).take (8 * data.length - pad), pad) := by
    rw [hinp, ← digit_eq_add, unpackBits_concat_digit hdigit hpad]
  have hout : (((data.flatMap bin8).take (8 * data.length - pad)).map bitSymbol).length = 8 * data.length - pad := by
    rw [List.length_map, List.length_take, flatMap_bin8_length]
    exact Nat.min_eq_left (Nat.sub_le _ _)
  have hdst := hout.trans_le hfit
  refine ⟨_, exec_unpack_ok hcap hunpack hdst, rfl, (State.deliver_dstLen_toNat hlegal hdst).trans hout,
    toNat_ofNat_pad hdigit, fun i hi => ?_⟩
  simp only [State.succeed_dst, State.deliver_dst_byte?]
  rw [List.getElem?_map, List.getElem?_take_of_lt hi, flatMap_bin8_getElem?, Option.map_map]
  rfl

/-- Settles O9: the body raises in each case, and a body that raises fails the command with exactly its column. -/
theorem bitPackerFormatErrors : Obligations.BitPackerFormatErrors := by
  refine ⟨fun m s hcap hbad => ?_, fun m s hcap hbad => ?_, fun m s hcap hsym hlong => ?_,
    fun m s bits pad hcap hunpack hlong => ?_⟩
  · have hbody : bodyPack s = .error .fmtBitSymbol := by
      rw [bodyPack_eq hcap, if_neg (by push Not; exact hbad)]
    exact exec_of_error (i := .pack m) hbody
  · have hbody : bodyUnpack s = .error .fmtPad := bodyUnpack_of_error hcap (unpackBits_of_malformed hbad)
    exact exec_of_error (i := .unpack m) hbody
  · have hbody : bodyPack s = .error .capDst := by
      rw [bodyPack_eq hcap, if_pos hsym, State.emit_capDst (by simpa using hlong)]
      rfl
    exact failsWith_of_error (i := .pack m) hbody
  · have hbody : bodyUnpack s = .error .capDst := by
      rw [bodyUnpack_of_ok hcap hunpack, State.emit_capDst (by simpa using hlong)]
      rfl
    exact failsWith_of_error (i := .unpack m) hbody
end

section
/-! ## Decimal numerals

`dec n` is a non-empty sequence of digits whose value is `n`, and the parser's digit span takes exactly it (R13). -/

namespace Sys2Proof.Machine

theorem isDigit_digit {d : Nat} (hd : d < 10) : isDigit (digit d) = true := by
  interval_cases d <;> decide

theorem digit_value {d : Nat} (hd : d < 10) : (digit d).toNat - 0x30 = d := by
  interval_cases d <;> decide

/-- The last digit of a numeral is the lowest one. -/
theorem val_concat (s : Bytes) (c : Byte) : val (s ++ [c]) = 10 * val s + (c.toNat - 0x30) := by
  simp [val]

theorem decBefore_eq_append {fuel n : Nat} (acc : Bytes) (hfuel : n < fuel) :
    ∃ ds, decBefore fuel n acc = ds ++ acc ∧ ds ≠ [] ∧ (∀ c ∈ ds, isDigit c = true) ∧ val ds = n := by
  induction fuel generalizing n acc with
  | zero => omega
  | succ fuel ih =>
    unfold decBefore
    split
    · rename_i hn
      exact ⟨[digit n], rfl, List.cons_ne_nil _ _, by simpa using isDigit_digit hn, by simpa [val] using digit_value hn⟩
    · rename_i hn
      have hlast : n % 10 < 10 := Nat.mod_lt n (by decide)
      obtain ⟨ds, heq, -, hdigits, hval⟩ := ih (n := n / 10) (digit (n % 10) :: acc) (by omega)
      refine ⟨ds ++ [digit (n % 10)], by simp [heq], by simp, ?_, ?_⟩
      · simpa [or_imp, forall_and, isDigit_digit hlast] using hdigits
      · rw [val_concat, hval, digit_value hlast]
        omega

/-- `dec` spells its number in digits (R13). -/
theorem dec_spec (n : Nat) : dec n ≠ [] ∧ (∀ c ∈ dec n, isDigit c = true) ∧ val (dec n) = n := by
  obtain ⟨ds, heq, hspec⟩ := decBefore_eq_append [] (Nat.lt_succ_self n)
  rw [List.append_nil] at heq
  rwa [dec, heq]

/-- The digit span of a numeral before a byte that is no digit is the numeral. -/
theorem spanDigits_append {ds rest : Bytes} {c : Byte} (hds : ∀ d ∈ ds, isDigit d = true) (hc : isDigit c = false) :
    spanDigits (ds ++ c :: rest) = (ds, c :: rest) := by
  induction ds with
  | nil => simp [spanDigits, hc]
  | cons d ds ih =>
    obtain ⟨hd, hds⟩ := List.forall_mem_cons.mp hds
    simp [spanDigits, hd, ih hds]

end Sys2Proof.Machine
end

section
/-! ## The stream of a tree: serializer and parser -/

namespace Sys2Proof.Machine

theorem CodeTree.size_pos (t : CodeTree) : 0 < t.size := by
  cases t <;> simp only [CodeTree.size] <;> omega

/-! ### Tokens -/

theorem nextToken_leaf (b : Byte) (rest : Bytes) :
    nextToken (b :: asciiLowerL :: asciiComma :: rest) = .ok (.leaf b, rest) := rfl

/-- Digits before a comma are the token of an internal node, where the number fits a frequency (R157). -/
theorem nextToken_digits {ds : Bytes} (rest : Bytes) (hne : ds ≠ []) (hds : ∀ d ∈ ds, isDigit d = true)
    (hval : val ds < 2 ^ 32) :
    nextToken (ds ++ asciiComma :: rest) = .ok (.internal (BitVec.ofNat 32 (val ds)), rest) := by
  have hspan : spanDigits (ds ++ asciiComma :: rest) = (ds, asciiComma :: rest) :=
    spanDigits_append hds (by decide)
  have hsecond : ∃ b c tail, ds ++ asciiComma :: rest = b :: c :: tail ∧ c ≠ asciiLowerL := by
    match ds with
    | [d] => exact ⟨d, asciiComma, rest, rfl, by decide⟩
    | d :: e :: ds =>
      refine ⟨d, e, ds ++ asciiComma :: rest, rfl, ?_⟩
      rintro rfl
      exact absurd (hds asciiLowerL (by simp)) (by decide)
  obtain ⟨b, c, tail, heq, hc⟩ := hsecond
  rw [heq] at hspan ⊢
  simp only [nextToken, hc, hspan, hne, if_false]
  rw [if_neg (by simp), if_neg (by omega)]

/-- The token of an internal node carries its frequency (R156). -/
theorem nextToken_dec (f : Word) (rest : Bytes) :
    nextToken (dec f.toNat ++ asciiComma :: rest) = .ok (.internal f, rest) := by
  obtain ⟨hne, hdigits, hval⟩ := dec_spec f.toNat
  rw [nextToken_digits rest hne hdigits (hval.trans_lt f.isLt), hval, BitVec.ofNat_toNat, BitVec.setWidth_eq]

/-- A token that does not read is truncated or malformed (R157). -/
theorem nextToken_error {s : Bytes} {c : Cause} (h : nextToken s = .error c) :
    c = .fmtTreeTruncated ∨ c = .fmtTreeToken := by
  unfold nextToken at h
  split at h
  · cases h; exact .inl rfl
  · cases h; exact .inl rfl
  · split at h
    · split at h
      · cases h; exact .inl rfl
      · split at h <;> cases h
        exact .inr rfl
    · dsimp only at h
      split at h
      · cases h; exact .inr rfl
      · split at h
        · cases h; exact .inl rfl
        · split at h
          · cases h; exact .inr rfl
          · split at h <;> cases h
            exact .inr rfl

/-! ### Nodes -/

/-- The parser reads a serialized tree back from the head of a stream, where the count stays within NODE_CAP (R159). -/
theorem parseNode_serialize {t : CodeTree} {fuel count : Nat} (rest : Bytes) (hfuel : t.size ≤ fuel)
    (hcap : count + t.size ≤ Config.nodeCap) :
    parseNode fuel (serialize t ++ rest) count = .ok (t, rest, count + t.size) := by
  induction t generalizing fuel count rest with
  | leaf b =>
    simp only [CodeTree.size] at hfuel hcap
    obtain ⟨fuel, rfl⟩ := Nat.exists_eq_add_of_le' hfuel
    simp only [parseNode, serialize, List.cons_append, List.nil_append, nextToken_leaf, if_neg (Nat.not_lt.mpr hcap),
      CodeTree.size]
  | node f l r ihl ihr =>
    simp only [CodeTree.size] at hfuel hcap
    obtain ⟨fuel, rfl⟩ := Nat.exists_eq_add_of_le' (show 1 ≤ fuel by omega)
    have hleft := ihl (fuel := fuel) (count := count + 1) (serialize r ++ rest) (by omega) (by omega)
    have hright := ihr (fuel := fuel) (count := count + 1 + l.size) rest (by omega) (by omega)
    have hroom : ¬Config.nodeCap < count + 1 := by omega
    have hcount : count + 1 + l.size + r.size = count + (1 + l.size + r.size) := by omega
    simp only [parseNode, serialize, List.append_assoc, List.cons_append, nextToken_dec, if_neg hroom, hleft, hright,
      hcount, CodeTree.size]

theorem CodeTree.size_le_serialize_length (t : CodeTree) : t.size ≤ (serialize t).length := by
  induction t with
  | leaf b => simp [CodeTree.size, serialize]
  | node f l r ihl ihr => simp only [CodeTree.size, serialize, List.length_append, List.length_cons]; omega

/-- Parsing inverts serializing (R159). -/
theorem deserialize_serialize {t : CodeTree} (hnode : t.isNode = true) (hsize : t.size ≤ Config.nodeCap) :
    deserialize (serialize t) = .ok t := by
  have hparse : parseNode ((serialize t).length + 1) (serialize t) 0 = .ok (t, [], 0 + t.size) := by
    simpa using parseNode_serialize (t := t) (count := 0) []
      (t.size_le_serialize_length.trans (Nat.le_succ _)) (by omega)
  simp [deserialize, hparse, hnode]

theorem parseNode_error {fuel count : Nat} {s : Bytes} {c : Cause} (h : parseNode fuel s count = .error c) :
    c = .fmtTreeTruncated ∨ c = .fmtTreeToken ∨ c = .capTree := by
  induction fuel generalizing s count c with
  | zero => cases h; exact .inl rfl
  | succ fuel ih =>
    unfold parseNode at h
    split at h
    · rename_i htoken
      cases h
      exact (nextToken_error htoken).imp_right .inl
    · split at h
      · cases h; exact .inr (.inr rfl)
      · split at h
        · cases h
        · split at h
          · rename_i hl
            cases h
            exact ih hl
          · split at h
            · rename_i hr
              cases h
              exact ih hr
            · cases h

/-- The errors of a stream that does not parse (R157). -/
theorem deserialize_error {s : Bytes} {c : Cause} (h : deserialize s = .error c) :
    c = .fmtTreeTruncated ∨ c = .fmtTreeToken ∨ c = .fmtTreeTrailing ∨ c = .fmtTreeLeafRoot ∨ c = .capTree := by
  unfold deserialize at h
  split at h
  · rename_i hparse
    cases h
    obtain h | h | h := parseNode_error hparse <;> simp [h]
  · split_ifs at h <;> cases h <;> simp

end Sys2Proof.Machine
end

section
/-! ## The codes of a tree

`deriveCodes` gives a byte the path of its rightmost leaf, which `lastPath` names by recursion on the tree; what a code
is follows from what such a path is (R154, R155). -/

namespace Sys2Proof.Machine

/-! ### Paths -/

/-- The path to the rightmost leaf of a byte. -/
def CodeTree.lastPath : CodeTree → Byte → Option Bits
  | .leaf b, x => if x = b then some [] else none
  | .node _ l r, x => ((r.lastPath x).map (true :: ·)).or ((l.lastPath x).map (false :: ·))

/-- The last visit of a byte stands: it puts the path of the byte's rightmost leaf, and keeps the code of a byte that
is no leaf of the tree (R154). -/
theorem visit_eq_lastPath (t : CodeTree) (p : Bits) (c : Byte → Option Bits) (x : Byte) :
    visit t p c x = ((t.lastPath x).map (p ++ ·)).or (c x) := by
  induction t generalizing p c with
  | leaf b =>
    simp only [visit, CodeTree.lastPath]
    split <;> simp
  | node f l r ihl ihr =>
    rw [visit, ihr, ihl, CodeTree.lastPath]
    cases r.lastPath x <;> cases l.lastPath x <;> simp

theorem deriveCodes_eq_lastPath (t : CodeTree) (x : Byte) : deriveCodes t x = t.lastPath x := by
  simp [deriveCodes, visit_eq_lastPath]

theorem CodeTree.lastPath_node_eq_some {f : Word} {l r : CodeTree} {x : Byte} {p : Bits} :
    (CodeTree.node f l r).lastPath x = some p ↔
      (∃ q, r.lastPath x = some q ∧ p = true :: q) ∨
        (r.lastPath x = none ∧ ∃ q, l.lastPath x = some q ∧ p = false :: q) := by
  rw [CodeTree.lastPath]
  cases r.lastPath x <;> cases l.lastPath x <;> simp [eq_comm]

theorem CodeTree.lastPath_eq_none_iff (t : CodeTree) (x : Byte) : t.lastPath x = none ↔ x ∉ t.leaves := by
  induction t with
  | leaf b => simp [CodeTree.lastPath, CodeTree.leaves]
  | node f l r ihl ihr => simp [CodeTree.lastPath, CodeTree.leaves, ihl, ihr, and_comm]

theorem CodeTree.exists_lastPath {t : CodeTree} {x : Byte} (h : x ∈ t.leaves) : ∃ p, t.lastPath x = some p :=
  Option.ne_none_iff_exists'.mp fun hnone => (t.lastPath_eq_none_iff x).mp hnone h

/-- The path of a byte leads to a leaf of it. -/
theorem CodeTree.follow_lastPath {t : CodeTree} {x : Byte} {p : Bits} (h : t.lastPath x = some p) :
    t.follow p = some (.leaf x) := by
  induction t generalizing p with
  | leaf b =>
    obtain ⟨rfl, rfl⟩ : x = b ∧ p = [] := by simpa [CodeTree.lastPath, eq_comm] using h
    rfl
  | node f l r ihl ihr =>
    obtain ⟨q, hq, rfl⟩ | ⟨-, q, hq, rfl⟩ := CodeTree.lastPath_node_eq_some.mp h
    · exact ihr hq
    · exact ihl hq

/-- The code of a byte leads to a leaf of it (R154). -/
theorem follow_deriveCodes {t : CodeTree} {x : Byte} {p : Bits} (h : deriveCodes t x = some p) :
    t.follow p = some (.leaf x) :=
  CodeTree.follow_lastPath ((deriveCodes_eq_lastPath t x).symm.trans h)

theorem exists_deriveCodes {t : CodeTree} {x : Byte} (h : x ∈ t.leaves) : ∃ p, deriveCodes t x = some p :=
  deriveCodes_eq_lastPath t x ▸ CodeTree.exists_lastPath h

theorem CodeTree.mem_leaves_of_follow {t : CodeTree} {x : Byte} {p : Bits} (h : t.follow p = some (.leaf x)) :
    x ∈ t.leaves := by
  induction t generalizing p with
  | leaf b =>
    cases p with
    | nil => cases h; exact List.mem_singleton_self x
    | cons bit p => cases h
  | node f l r ihl ihr =>
    cases p with
    | nil => cases h
    | cons bit p =>
      cases bit with
      | false => exact List.mem_append_left _ (ihl h)
      | true => exact List.mem_append_right _ (ihr h)

/-- Any other path to a leaf of the byte turns left where the path of the rightmost one turns right. -/
theorem CodeTree.lastPath_rightmost {t : CodeTree} {x : Byte} {p q : Bits} (h : t.lastPath x = some p)
    (hq : t.follow q = some (.leaf x)) : q = p ∨ ∃ c, (c ++ [false]) <+: q ∧ (c ++ [true]) <+: p := by
  induction t generalizing p q with
  | leaf b =>
    cases q with
    | nil =>
      obtain ⟨-, rfl⟩ : x = b ∧ p = [] := by simpa [CodeTree.lastPath, eq_comm] using h
      exact .inl rfl
    | cons bit q => cases hq
  | node f l r ihl ihr =>
    cases q with
    | nil => cases hq
    | cons bit q =>
      obtain ⟨p, hp, rfl⟩ | ⟨hright, p, hp, rfl⟩ := CodeTree.lastPath_node_eq_some.mp h <;> cases bit
      · exact .inr ⟨[], by simp⟩
      · obtain rfl | ⟨c, hfalse, htrue⟩ := ihr hp hq
        · exact .inl rfl
        · exact .inr ⟨true :: c, by simpa using hfalse, by simpa using htrue⟩
      · obtain rfl | ⟨c, hfalse, htrue⟩ := ihl hp hq
        · exact .inl rfl
        · exact .inr ⟨false :: c, by simpa using hfalse, by simpa using htrue⟩
      · exact absurd (CodeTree.mem_leaves_of_follow (t := r) hq) ((r.lastPath_eq_none_iff x).mp hright)

/-- No path leads on from a leaf: two leaves one of whose paths begins the other are the same leaf. -/
theorem CodeTree.leaf_eq_of_prefix {t : CodeTree} {b c : Byte} {p q : Bits} (hp : t.follow p = some (.leaf b))
    (hq : t.follow q = some (.leaf c)) (hpre : p <+: q) : b = c := by
  induction p generalizing t q with
  | nil =>
    cases hp
    cases q with
    | nil => cases hq; rfl
    | cons bit q => cases hq
  | cons bit p ih =>
    obtain ⟨q, rfl, hrest⟩ := List.cons_prefix_iff.mp hpre
    cases t with
    | leaf b => cases hp
    | node f l r => exact ih hp hq hrest

/-- Every step of a path passes by another child: a path of length d needs 2 d nodes beside the one it leads to. -/
theorem CodeTree.size_of_follow {t u : CodeTree} {p : Bits} (h : t.follow p = some u) :
    2 * p.length + u.size ≤ t.size := by
  induction p generalizing t with
  | nil => cases h; simp
  | cons bit p ih =>
    cases t with
    | leaf b => cases h
    | node f l r =>
      have hchild := ih h
      have hl := l.size_pos
      have hr := r.size_pos
      cases bit <;> simp only [CodeTree.size, List.length_cons, Bool.false_eq_true, if_false, if_true] at hchild ⊢ <;>
        omega

theorem CodeTree.length_le_of_follow_leaf {t : CodeTree} {b : Byte} {p : Bits} (hsize : t.size ≤ 511)
    (h : t.follow p = some (.leaf b)) : p.length ≤ 255 := by
  have := CodeTree.size_of_follow h
  rw [CodeTree.size] at this
  omega

theorem CodeTree.length_pos_of_follow_leaf {t : CodeTree} {b : Byte} {p : Bits} (hnode : t.isNode = true)
    (h : t.follow p = some (.leaf b)) : 1 ≤ p.length := by
  cases p with
  | nil => cases h; cases hnode
  | cons bit p => exact Nat.le_add_left 1 p.length

/-! ### The code table -/

/-- Bit `i` of the code word is bit `i` of the code (R161). -/
theorem natOfBitsLsb_testBit (p : Bits) (i : Nat) : (natOfBitsLsb p).testBit i = p.getD i false := by
  induction p generalizing i with
  | nil => simp [natOfBitsLsb]
  | cons bit p ih =>
    have hbit : natOfBitsLsb (bit :: p) = Nat.bit bit (natOfBitsLsb p) := by
      rw [natOfBitsLsb, Nat.bit_val, Nat.add_comm]
    rw [hbit]
    cases i with
    | zero => simp
    | succ i => rw [Nat.testBit_bit_succ, ih, List.getD_cons_succ]

/-- The entries of the code table for a byte with the code `p` (R37, R161). -/
theorem codeTable_of_some {c : Byte → Option Bits} {b : Byte} {p : Bits} (h : c b = some p) (hlen : p.length ≤ 255) :
    ((codeLenTable c)[b.toNat]'b.isLt).toNat = p.length ∧
      ∀ i, ((codeBitsTable c)[b.toNat]'b.isLt).getLsbD i = p.getD i false := by
  simp only [codeLenTable, codeBitsTable, tabulate_getElem, BitVec.ofNat_toNat, BitVec.setWidth_eq, h, Option.getD_some,
    BitVec.toNat_ofNat, BitVec.getLsbD_ofNat, natOfBitsLsb_testBit]
  refine ⟨Nat.mod_eq_of_lt (by omega), fun i => ?_⟩
  by_cases hi : i < 256
  · simp [hi]
  · have hbeyond : p.length ≤ i := by omega
    simp [hi, hbeyond]

/-- The entries of the code table for a byte without a code are 0 (R37, R161). -/
theorem codeTable_of_none {c : Byte → Option Bits} {b : Byte} (h : c b = none) :
    (codeLenTable c)[b.toNat]'b.isLt = 0 ∧ (codeBitsTable c)[b.toNat]'b.isLt = 0 := by
  simp [codeLenTable, codeBitsTable, h, natOfBitsLsb]

end Sys2Proof.Machine
end

section
/-! ## The builder

One round of the builder is said once, up to the order of the slots: two slots become one (R151). What a round keeps of
the list of slots then holds of the tree. -/

namespace Sys2Proof.Machine

/-! ### The seeds -/

theorem mem_foldl_insert (data acc : Bytes) (b : Byte) :
    b ∈ data.foldl (fun s b => if b ∈ s then s else s ++ [b]) acc ↔ b ∈ acc ∨ b ∈ data := by
  induction data generalizing acc with
  | nil => simp
  | cons x data ih =>
    rw [List.foldl_cons, ih, List.mem_cons]
    split
    · rename_i hx
      exact ⟨fun h => h.imp_right .inr, by rintro (h | rfl | h) <;> simp [*]⟩
    · rw [List.mem_append, List.mem_singleton, or_assoc]

theorem mem_seedOrder {data : Bytes} {b : Byte} : b ∈ seedOrder data ↔ b ∈ data := by
  simp [seedOrder, mem_foldl_insert]

theorem seedOrder_nodup (data : Bytes) : (seedOrder data).Nodup := foldl_insert_nodup data [] List.nodup_nil

/-- The seeds are the distinct bytes of the data (R150). -/
theorem seedOrder_perm_dedup (data : Bytes) : (seedOrder data).Perm data.dedup :=
  (List.perm_ext_iff_of_nodup (seedOrder_nodup data) data.nodup_dedup).mpr fun b => by
    rw [mem_seedOrder, List.mem_dedup]

theorem seedOrder_eq_nil_iff {data : Bytes} : seedOrder data = [] ↔ data = [] := by
  simp only [List.eq_nil_iff_forall_not_mem, mem_seedOrder]

/-! ### One round -/

theorem exists_minWeight {l : List Slot} (h : l ≠ []) : ∃ x ∈ l, x.1 = minWeight l := by
  induction l with
  | nil => exact absurd rfl h
  | cons x l ih =>
    cases l with
    | nil => exact ⟨x, List.mem_singleton_self x, rfl⟩
    | cons y l =>
      obtain ⟨z, hz, hmin⟩ := ih (List.cons_ne_nil y l)
      rw [minWeight]
      · obtain hle | hle := Nat.le_total x.1 (minWeight (y :: l))
        · exact ⟨x, by simp, (Nat.min_eq_left hle).symm⟩
        · exact ⟨z, List.mem_cons_of_mem x hz, hmin.trans (Nat.min_eq_right hle).symm⟩
      · exact List.cons_ne_nil y l

theorem minIndex_lt {l : List Slot} (h : l ≠ []) : minIndex l < l.length := by
  obtain ⟨x, hx, hmin⟩ := exists_minWeight h
  exact List.findIdx_lt_length_of_exists ⟨x, hx, beq_iff_eq.mpr hmin⟩

/-- The slot that takes the place of the slots `a` and `b` (R151). -/
def mergedSlot (a b : Slot) : Slot := (a.1 + b.1, .node (BitVec.ofNat 32 (a.1 + b.1)) a.2 b.2)

/-- Replacing slot `hi` and taking slot `lo` out, up to the order of the slots. -/
theorem set_eraseIdx_perm {l : List Slot} {lo hi : Nat} (y : Slot) (hlt : lo < hi) (hhi : hi < l.length) :
    ∃ rest, l.Perm (l[lo] :: l[hi] :: rest) ∧ ((l.set hi y).eraseIdx lo).Perm (y :: rest) := by
  have hlen : hi - 1 < (l.eraseIdx lo).length := by
    rw [List.length_eraseIdx_of_lt (hlt.trans hhi)]
    omega
  have hget : (l.eraseIdx lo)[hi - 1] = l[hi] := by
    apply Option.some.inj
    rw [← List.getElem?_eq_getElem, ← List.getElem?_eq_getElem, List.getElem?_eraseIdx_of_ge (by omega)]
    congr 1
    omega
  refine ⟨(l.eraseIdx lo).eraseIdx (hi - 1), ?_, ?_⟩
  · have hrest := List.getElem_cons_eraseIdx_perm hlen
    rw [hget] at hrest
    exact (List.getElem_cons_eraseIdx_perm (hlt.trans hhi)).symm.trans (hrest.symm.cons _)
  · rw [List.eraseIdx_set_lt hlt]
    exact List.set_perm_cons_eraseIdx hlen y

/-- The two slots of one round are different slots of the list: the second pass excludes the first slot (R151). -/
theorem mergeLowest_eq {l : List Slot} (h : 2 ≤ l.length) :
    ∃ (lo hi : Nat) (hlt : lo < hi) (hhi : hi < l.length),
      mergeLowest l = (l.set hi (mergedSlot l[lo] l[hi])).eraseIdx lo := by
  have hfirst : minIndex l < l.length := minIndex_lt (List.ne_nil_of_length_pos (by omega))
  have hlen := List.length_eraseIdx_of_lt hfirst
  have hsecond : minIndex (l.eraseIdx (minIndex l)) < l.length - 1 :=
    hlen ▸ minIndex_lt (List.ne_nil_of_length_pos (by omega))
  unfold mergeLowest
  dsimp only
  generalize minIndex (l.eraseIdx (minIndex l)) = j at hsecond ⊢
  generalize minIndex l = i at hfirst ⊢
  have hlt : min i (if j < i then j else j + 1) < max i (if j < i then j else j + 1) := by split <;> omega
  have hhi : max i (if j < i then j else j + 1) < l.length := by split <;> omega
  refine ⟨_, _, hlt, hhi, ?_⟩
  simp only [List.getElem?_eq_getElem hhi, List.getElem?_eq_getElem (hlt.trans hhi), mergedSlot]

/-- One round of the builder: two slots become their merged slot, up to the order of the slots (R151). -/
theorem mergeLowest_perm {l : List Slot} (h : 2 ≤ l.length) :
    ∃ a b rest, l.Perm (a :: b :: rest) ∧ (mergeLowest l).Perm (mergedSlot a b :: rest) := by
  obtain ⟨lo, hi, hlt, hhi, hmerge⟩ := mergeLowest_eq h
  obtain ⟨rest, hbefore, hafter⟩ := set_eraseIdx_perm (mergedSlot l[lo] l[hi]) hlt hhi
  exact ⟨_, _, rest, hbefore, hmerge ▸ hafter⟩

theorem mergeLowest_length {l : List Slot} (h : 2 ≤ l.length) : (mergeLowest l).length + 1 = l.length := by
  obtain ⟨a, b, rest, hl, hmerge⟩ := mergeLowest_perm h
  rw [hl.length_eq, hmerge.length_eq]
  rfl

/-! ### All rounds -/

theorem exists_mergeAll {fuel : Nat} {l : List Slot} (hne : l ≠ []) (hfuel : l.length ≤ fuel + 1) :
    ∃ t, mergeAll fuel l = some t := by
  induction fuel, l using mergeAll.induct with
  | case1 fuel x => exact ⟨x.2, by rw [mergeAll]⟩
  | case2 l hl =>
    have hone : l.length = 1 := by
      have := List.length_pos_of_ne_nil hne
      omega
    obtain ⟨x, rfl⟩ := List.length_eq_one_iff.mp hone
    exact absurd rfl (hl x)
  | case3 fuel l hl ih =>
    have htwo : 2 ≤ l.length := by
      match l, hne, hl with
      | [x], _, hl => exact absurd rfl (hl x)
      | _ :: _ :: _, _, _ => simp
    have hlen := mergeLowest_length htwo
    rw [mergeAll]
    · exact ih (List.ne_nil_of_length_pos (by omega)) (by omega)
    · exact hl

/-- What every round keeps of the list of slots holds of the last slot. -/
theorem mergeAll_keeps {P : List Slot → Prop} (hstep : ∀ l, 2 ≤ l.length → P l → P (mergeLowest l)) {fuel : Nat}
    {l : List Slot} {t : CodeTree} (hl : P l) (h : mergeAll fuel l = some t) : ∃ w, P [(w, t)] := by
  induction fuel, l using mergeAll.induct with
  | case1 fuel x =>
    rw [mergeAll] at h
    cases h
    exact ⟨x.1, hl⟩
  | case2 l hne =>
    rw [mergeAll] at h
    · cases h
    · exact hne
  | case3 fuel l hne ih =>
    rw [mergeAll] at h
    · refine ih ?_ h
      match l with
      | [] => exact hl
      | [x] => exact absurd rfl (hne x)
      | x :: y :: rest => exact hstep _ (by simp) hl
    · exact hne

/-- A property of lists of slots that their order does not matter to, and that merging two slots keeps, holds of the
last slot. -/
theorem mergeAll_keeps_of_perm {P : List Slot → Prop} (hperm : ∀ l l', l.Perm l' → P l → P l')
    (hmerge : ∀ a b rest, P (a :: b :: rest) → P (mergedSlot a b :: rest)) {fuel : Nat} {l : List Slot} {t : CodeTree}
    (hl : P l) (h : mergeAll fuel l = some t) : ∃ w, P [(w, t)] := by
  refine mergeAll_keeps (fun l' htwo hP => ?_) hl h
  obtain ⟨a, b, rest, hbefore, hafter⟩ := mergeLowest_perm htwo
  exact hperm _ _ hafter.symm (hmerge a b rest (hperm _ _ hbefore hP))

/-! ### Leaves and weights -/

/-- The leaves of the slots are the seeds. -/
def SlotLeaves (seeds : Bytes) (l : List Slot) : Prop := (l.flatMap fun x => x.2.leaves).Perm seeds

/-- Every slot weighs what its tree does, and every frequency below it is a sum of leaf weights. -/
def SlotWeights (w : Byte → Nat) (l : List Slot) : Prop := ∀ x ∈ l, x.1 = x.2.weight w ∧ x.2.freqsAre w

theorem SlotLeaves.perm {seeds : Bytes} {l l' : List Slot} (hp : l.Perm l') (h : SlotLeaves seeds l) :
    SlotLeaves seeds l' :=
  (hp.flatMap_right _).symm.trans h

theorem SlotWeights.perm {w : Byte → Nat} {l l' : List Slot} (hp : l.Perm l') (h : SlotWeights w l) :
    SlotWeights w l' :=
  fun x hx => h x (hp.mem_iff.mpr hx)

theorem SlotLeaves.merge {seeds : Bytes} {a b : Slot} {rest : List Slot} (h : SlotLeaves seeds (a :: b :: rest)) :
    SlotLeaves seeds (mergedSlot a b :: rest) := by
  simpa [SlotLeaves, mergedSlot, CodeTree.leaves] using h

theorem CodeTree.weight_eq_sum_leaves (w : Byte → Nat) (t : CodeTree) : t.weight w = (t.leaves.map w).sum := by
  induction t with
  | leaf b => simp [CodeTree.weight, CodeTree.leaves]
  | node f l r ihl ihr => rw [CodeTree.weight, CodeTree.leaves, ihl, ihr, List.map_append, List.sum_append]

/-- Two slots together weigh no more than all seeds. -/
theorem SlotLeaves.weight_le {seeds : Bytes} {a b : Slot} {rest : List Slot} (w : Byte → Nat)
    (h : SlotLeaves seeds (a :: b :: rest)) : a.2.weight w + b.2.weight w ≤ (seeds.map w).sum := by
  rw [← (h.map w).sum_eq]
  simp only [List.flatMap_cons, List.map_append, List.sum_append, CodeTree.weight_eq_sum_leaves]
  omega

/-- A merged slot weighs what its tree does: the weight of all seeds fits a frequency, so the sum does (R153). -/
theorem SlotWeights.merge {w : Byte → Nat} {seeds : Bytes} {a b : Slot} {rest : List Slot}
    (hfit : (seeds.map w).sum < 2 ^ 32) (hleaves : SlotLeaves seeds (a :: b :: rest))
    (h : SlotWeights w (a :: b :: rest)) : SlotWeights w (mergedSlot a b :: rest) := by
  obtain ⟨ha, h⟩ := List.forall_mem_cons.mp h
  obtain ⟨hb, hrest⟩ := List.forall_mem_cons.mp h
  obtain ⟨haw, haf⟩ := ha
  obtain ⟨hbw, hbf⟩ := hb
  have hle := hleaves.weight_le w
  have hfreq : (BitVec.ofNat 32 (a.1 + b.1)).toNat = a.2.weight w + b.2.weight w := by
    rw [BitVec.toNat_ofNat, haw, hbw]
    exact Nat.mod_eq_of_lt (by omega)
  exact List.forall_mem_cons.mpr ⟨⟨by rw [mergedSlot, CodeTree.weight, haw, hbw], hfreq, haf, hbf⟩, hrest⟩

theorem seedSlots_leaves (data : Bytes) : SlotLeaves (seedOrder data) (seedSlots data) := by
  simp [SlotLeaves, seedSlots, List.flatMap_map, CodeTree.leaves]

theorem seedSlots_weights (data : Bytes) : SlotWeights (fun b => data.count b) (seedSlots data) := by
  simp [SlotWeights, seedSlots, CodeTree.weight, CodeTree.freqsAre, freqOf]

/-- The seeds' counts add up to the length of the data. -/
theorem seedOrder_sum_count (data : Bytes) : ((seedOrder data).map fun b => data.count b).sum = data.length :=
  ((seedOrder_perm_dedup data).map _).sum_eq.trans (List.sum_map_count_dedup_eq_length data)

/-! ### The built tree -/

/-- Everything the builder can do: no tree for no data, the degenerate tree for one distinct byte, else all rounds
(R151, R152). -/
theorem buildTree_cases (data : Bytes) :
    (seedOrder data = [] ∧ buildTree data = none) ∨
      (∃ b, seedOrder data = [b] ∧
        buildTree data = some (.node (BitVec.ofNat 32 (2 * freqOf data b)) (.leaf b) (.leaf b))) ∨
      (2 ≤ (seedOrder data).length ∧ buildTree data = mergeAll (seedSlots data).length (seedSlots data)) := by
  unfold buildTree
  match seedOrder data with
  | [] => exact .inl ⟨rfl, rfl⟩
  | [b] => exact .inr (.inl ⟨b, rfl, rfl⟩)
  | _ :: _ :: _ => exact .inr (.inr ⟨by simp, rfl⟩)

@[simp] theorem seedSlots_length (data : Bytes) : (seedSlots data).length = (seedOrder data).length :=
  List.length_map _

/-- Data of two distinct bytes and more is built by rounds. -/
theorem buildTree_of_two {data : Bytes} (h : 2 ≤ data.dedup.length) :
    buildTree data = mergeAll (seedSlots data).length (seedSlots data) := by
  rw [← (seedOrder_perm_dedup data).length_eq] at h
  obtain ⟨hs, -⟩ | ⟨b, hs, -⟩ | ⟨-, hbuild⟩ := buildTree_cases data
  · simp [hs] at h
  · simp [hs] at h
  · exact hbuild

theorem exists_mergeAll_seedSlots {data : Bytes} (h : seedOrder data ≠ []) :
    ∃ t, mergeAll (seedSlots data).length (seedSlots data) = some t :=
  exists_mergeAll (List.ne_nil_of_length_pos (by simpa [List.length_pos_iff] using h)) (Nat.le_succ _)

theorem buildTree_eq_none_iff {data : Bytes} : buildTree data = none ↔ data = [] := by
  rw [← seedOrder_eq_nil_iff]
  obtain ⟨hs, hbuild⟩ | ⟨b, hs, hbuild⟩ | ⟨htwo, hbuild⟩ := buildTree_cases data
  · simp [hs, hbuild]
  · simp [hs, hbuild]
  · have hne : seedOrder data ≠ [] := List.ne_nil_of_length_pos (by omega)
    obtain ⟨t, ht⟩ := exists_mergeAll_seedSlots hne
    rw [hbuild, ht]
    simp [hne]

/-- The rounds make a tree with one leaf per distinct byte (R153). -/
theorem mergeAll_seedSlots_leaves {data : Bytes} {t : CodeTree}
    (h : mergeAll (seedSlots data).length (seedSlots data) = some t) : t.leaves.Perm data.dedup := by
  obtain ⟨w, hleaves⟩ := mergeAll_keeps_of_perm (P := SlotLeaves (seedOrder data)) (fun _ _ => .perm)
    (fun _ _ _ => .merge) (seedSlots_leaves data) h
  simpa [SlotLeaves] using hleaves.trans (seedOrder_perm_dedup data)

/-- The rounds make a tree whose frequencies are the sums of the counts below them (R153). -/
theorem mergeAll_seedSlots_freqs {data : Bytes} {t : CodeTree} (hfit : data.length < 2 ^ 32)
    (h : mergeAll (seedSlots data).length (seedSlots data) = some t) : t.freqsAre fun b => data.count b := by
  obtain ⟨w, -, hweights⟩ := mergeAll_keeps_of_perm
    (P := fun l => SlotLeaves (seedOrder data) l ∧ SlotWeights (fun b => data.count b) l)
    (fun _ _ hp ⟨hl, hw⟩ => ⟨hl.perm hp, hw.perm hp⟩)
    (fun _ _ _ ⟨hl, hw⟩ => ⟨hl.merge, hw.merge ((seedOrder_sum_count data).trans_lt hfit) hl⟩)
    ⟨seedSlots_leaves data, seedSlots_weights data⟩ h
  exact (hweights _ (List.mem_singleton_self _)).2

/-- The leaves of a built tree are the bytes of the data (R151, R152). -/
theorem mem_leaves_buildTree {data : Bytes} {t : CodeTree} {b : Byte} (h : buildTree data = some t) :
    b ∈ t.leaves ↔ b ∈ data := by
  obtain ⟨hs, hbuild⟩ | ⟨c, hs, hbuild⟩ | ⟨-, hbuild⟩ := buildTree_cases data <;> rw [hbuild] at h
  · cases h
  · cases h
    simp [← mem_seedOrder (data := data), hs, CodeTree.leaves]
  · rw [(mergeAll_seedSlots_leaves h).mem_iff, List.mem_dedup]

/-- The built tree has as many distinct leaf bytes as the data has (R158). -/
theorem leafCount_buildTree (data : Bytes) : leafCount (buildTree data) = data.dedup.length := by
  cases h : buildTree data with
  | none => simp [leafCount, buildTree_eq_none_iff.mp h]
  | some t =>
    refine (List.Perm.length_eq ?_ : t.leaves.dedup.length = data.dedup.length)
    refine (List.perm_ext_iff_of_nodup t.leaves.nodup_dedup data.nodup_dedup).mpr fun b => ?_
    rw [List.mem_dedup, List.mem_dedup, mem_leaves_buildTree h]

end Sys2Proof.Machine
end

section
/-! ## The commands of the Huffman tree -/

namespace Sys2Proof.Machine

/-- NLEAF holds every leaf count (R34, R158). -/
theorem toNat_leafCount_word (tree : Option CodeTree) : (BitVec.ofNat 32 (leafCount tree)).toNat = leafCount tree :=
  Nat.mod_eq_of_lt (Nat.lt_of_le_of_lt (leafCount_le tree) (by decide))

/-- HUF_BUILD of an input within SRC_CAP (R160). -/
theorem exec_hufBuild_ok {m : BitVec 2} {s : State} (hcap : s.srcLen.toNat ≤ s.params.srcCap) :
    exec (.hufBuild m) s =
      .next (((s.spoilDst.setFreq (freqTable s.input)).setTree (buildTree s.input)).clearCodes).succeed := by
  apply exec_of_ok
  simp only [bodyOf, bodyHufBuild, State.srcInput_eq_input hcap]

/-- HUF_CODES of a held tree (R161). -/
theorem exec_hufCodes_ok {m : BitVec 2} {s : State} {t : CodeTree} (h : s.tree = some t) :
    exec (.hufCodes m) s = .next (s.spoilDst.setCodes t).succeed := by
  apply exec_of_ok
  simp only [bodyOf, bodyHufCodes, h]

/-- HUF_CODES without a tree (R161). -/
theorem bodyHufCodes_of_none {s : State} (h : s.tree = none) : bodyHufCodes s = .error .fmtTreeEmpty := by
  simp only [bodyHufCodes, h]

/-- HUF_SERIALIZE of a tree whose stream fits DST (R162). -/
theorem exec_hufSerialize_ok {m : BitVec 2} {s : State} (hfit : (serializeTree s.tree).length ≤ s.params.dstCap) :
    exec (.hufSerialize m) s = .next (s.deliver (serializeTree s.tree)).succeed :=
  exec_of_ok (State.emit_ok hfit)

/-- HUF_DESERIALIZE of a stream that parses (R163). -/
theorem exec_hufDeserialize_ok {m : BitVec 2} {s : State} {t : CodeTree} (hcap : s.srcLen.toNat ≤ s.params.srcCap)
    (h : deserialize s.input = .ok t) :
    exec (.hufDeserialize m) s = .next ((s.spoilDst.setTree (some t)).clearCodes).succeed := by
  apply exec_of_ok
  simp only [bodyOf, bodyHufDeserialize, State.srcInput_eq_input hcap, h]

/-- HUF_DESERIALIZE of a stream that does not parse raises the parser's error (R157, R163). -/
theorem bodyHufDeserialize_of_error {s : State} {c : Cause} (hcap : s.srcLen.toNat ≤ s.params.srcCap)
    (h : deserialize s.input = .error c) : bodyHufDeserialize s = .error c := by
  simp only [bodyHufDeserialize, State.srcInput_eq_input hcap, h]

/-- HUF_ENCODE of an input whose body is longer than DST_CAP (R95, R184). -/
theorem bodyHufEncode_capDst {s : State} (hcap : s.srcLen.toNat ≤ s.params.srcCap)
    (hlong : s.params.dstCap < (hufEncodeBody s.input).1.length) : bodyHufEncode s = .error .capDst := by
  simp only [bodyHufEncode, State.srcInput_eq_input hcap, State.emit_capDst hlong]

end Sys2Proof.Machine
end

section
open Sys2Proof Sys2Proof.Machine

/-- Settles O10: FREQ and NLEAF count the input's bytes, and a tree is built exactly from input that is not empty. -/
theorem hufBuildCountsAndBuilds : Obligations.HufBuildCountsAndBuilds := by
  intro m s hlegal hcap
  obtain ⟨-, hsrc, -⟩ := (Params.legal_iff _).mp hlegal
  refine ⟨_, exec_hufBuild_ok hcap, rfl, freqTable_entry s.input (s.input_length ▸ hcap.trans hsrc), ?_,
    buildTree_eq_none_iff⟩
  exact (toNat_leafCount_word (buildTree s.input)).trans (leafCount_buildTree s.input)

/-- Settles O11: every round keeps the leaves of the slots and what the slots weigh, and the count of nodes. -/
theorem builtTreeInvariants : Obligations.BuiltTreeInvariants := by
  intro data hlen htwo
  have hbuild := buildTree_of_two htwo
  have hseeds := (seedOrder_perm_dedup data).length_eq
  obtain ⟨t, ht⟩ := exists_mergeAll_seedSlots (data := data) (List.ne_nil_of_length_pos (by omega))
  have hleaves := mergeAll_seedSlots_leaves ht
  have hsize := mergeAll_size ht
  rw [seedSlots_slotNodes, hseeds] at hsize
  obtain ⟨hnode, hcap⟩ := buildTree_fitsStore data t (hbuild.trans ht)
  refine ⟨t, hbuild.trans ht, hnode, mergeAll_seedSlots_freqs hlen ht, ?_, hleaves, by omega, hcap⟩
  rw [CodeTree.weight_eq_sum_leaves, (hleaves.map _).sum_eq, List.sum_map_count_dedup_eq_length]

/-- Settles O12: the seeds of copies of one byte are that byte, and its last leaf is the right one. -/
theorem degenerateTreeOfOneByte : Obligations.DegenerateTreeOfOneByte := by
  intro b f hf
  refine ⟨?_, fun x => ?_⟩
  · have hseeds : seedOrder (List.replicate f b) = [b] := by
      have hdedup := seedOrder_perm_dedup (List.replicate f b)
      rwa [List.replicate_dedup (by omega), List.perm_singleton] at hdedup
    simp [buildTree, hseeds, freqOf]
  · rw [deriveCodes_eq_lastPath, CodeTree.lastPath, CodeTree.lastPath]
    split <;> rfl

/-- Settles O13: the code of a byte is the path of its rightmost leaf, of at most 255 bits in a tree of 511 nodes. -/
theorem hufCodesWritesRightmostPaths : Obligations.HufCodesWritesRightmostPaths := by
  intro m s t0 htree hsize
  refine ⟨_, exec_hufCodes_ok htree, rfl, fun b => ⟨fun hb => ?_, fun hb => ?_⟩⟩
  · apply codeTable_of_none
    rw [deriveCodes_eq_lastPath, CodeTree.lastPath_eq_none_iff]
    exact hb
  · obtain ⟨p, hp⟩ := CodeTree.exists_lastPath hb
    have hfollow := CodeTree.follow_lastPath hp
    obtain ⟨hlen, hbits⟩ := codeTable_of_some ((deriveCodes_eq_lastPath t0 b).trans hp)
      (CodeTree.length_le_of_follow_leaf hsize hfollow)
    exact ⟨p, hfollow, hlen, hbits, fun q => CodeTree.lastPath_rightmost hp⟩

/-- Settles O14: every code is the path of a leaf, and no path leads on from a leaf. -/
theorem codesArePrefixFreePaths : Obligations.CodesArePrefixFreePaths := by
  refine ⟨fun data t _ hbuild => ⟨fun b hb => ?_, fun b c p q hne hp hq hpre => ?_⟩, fun t b p hnode hsize hp => ?_⟩
  · obtain ⟨p, hp⟩ := exists_deriveCodes ((mem_leaves_buildTree hbuild).mpr hb)
    exact ⟨p, hp, follow_deriveCodes hp⟩
  · exact hne (CodeTree.leaf_eq_of_prefix (follow_deriveCodes hp) (follow_deriveCodes hq) hpre)
  · have hfollow := follow_deriveCodes hp
    exact ⟨CodeTree.length_pos_of_follow_leaf hnode hfollow, CodeTree.length_le_of_follow_leaf hsize hfollow⟩

/-- Settles O16: a tree that parses fits TREE, and the command stores it with its leaf count. -/
theorem hufDeserializeLoadsTree : Obligations.HufDeserializeLoadsTree := by
  intro m s t0 hcap hparse
  obtain ⟨hnode, hsize⟩ := deserialize_fitsStore hparse t0 rfl
  exact ⟨hnode, hsize, _, exec_hufDeserialize_ok hcap hparse, rfl, toNat_leafCount_word (some t0)⟩

/-- Settles O17: the parser reads every token of the stream back, and the count of nodes stays within NODE_CAP. -/
theorem deserializeInvertsSerialize : Obligations.DeserializeInvertsSerialize :=
  fun _ hnode hsize => deserialize_serialize hnode hsize

/-- Settles O18: the body raises in each case, and a body that raises leaves the failure write set of its command. -/
theorem treeCommandErrors : Obligations.TreeCommandErrors := by
  refine ⟨fun m s htree => ?_, fun m s hlong => ?_, fun m s c hcap hparse => ⟨deserialize_error hparse, ?_⟩,
    fun m s hcap hlong => ?_⟩
  · exact failsWith_of_error (i := .hufCodes m) (bodyHufCodes_of_none htree)
  · exact exec_of_error (i := .hufSerialize m) (State.emit_capDst hlong)
  · exact failsWith_of_error (i := .hufDeserialize m) (bodyHufDeserialize_of_error hcap hparse)
  · exact failsWith_of_error (i := .hufEncode m) (bodyHufEncode_capDst hcap hlong)

/-- Settles O15: the command delivers the stream, whose length a register holds; without a tree the stream is empty. -/
theorem hufSerializeWritesStream : Obligations.HufSerializeWritesStream := by
  intro m s hlegal hfit
  refine ⟨_, exec_hufSerialize_ok hfit, rfl, ⟨State.deliver_dstLen_toNat hlegal hfit, fun i _ => ?_⟩, fun hnone => ?_⟩
  · exact State.deliver_dst_byte? s _ i
  · rw [hnone]
    rfl
end

section
/-! ## The Huffman codec

The walk consumes a bit sequence one path at a time; the tree line of a body ends at its first CRLF because no token of a
tree stream has one in it (R180, R182, R183). -/

namespace Sys2Proof.Machine

/-! ### The walk -/

/-- The walk below a Node consumes the path to a leaf, emits its byte and is at the root again (R182). -/
theorem walkFrom_path {root n : CodeTree} {p : Bits} {b : Byte} (atRoot : Bool) (rest : Bits) (out : Bytes)
    (hnode : n.isNode = true) (hp : n.follow p = some (.leaf b)) :
    walkFrom root n atRoot (p ++ rest) out = walkFrom root root true rest (b :: out) := by
  induction p generalizing n atRoot with
  | nil => cases hp; cases hnode
  | cons bit p ih =>
    cases n with
    | leaf _ => cases hnode
    | node f l r =>
      rw [CodeTree.follow] at hp
      rw [List.cons_append, walkFrom]
      cases hchild : (if bit then r else l) with
      | leaf c =>
        rw [hchild] at hp
        cases p with
        | nil => cases hp; rfl
        | cons _ _ => cases hp
      | node f' l' r' =>
        rw [hchild] at hp
        exact ih false rfl hp

/-- Bits that end at a Node below the root end inside a path (R182). -/
theorem walkFrom_truncated {root n : CodeTree} {p : Bits} {f : Word} {l r : CodeTree} {atRoot : Bool} (out : Bytes)
    (hinside : p = [] → atRoot = false) (hp : n.follow p = some (.node f l r)) :
    walkFrom root n atRoot p out = .error .fmtBitsTruncated := by
  induction p generalizing n atRoot with
  | nil => rw [walkFrom, hinside rfl]; rfl
  | cons bit p ih =>
    cases n with
    | leaf _ => rfl
    | node f' l' r' =>
      rw [CodeTree.follow] at hp
      rw [walkFrom]
      cases hchild : (if bit then r' else l') with
      | leaf c =>
        rw [hchild] at hp
        cases p <;> cases hp
      | node _ _ _ =>
        rw [hchild] at hp
        exact ih (fun _ => rfl) hp

/-- The walk emits the leaf of each path, in order (R182). -/
theorem walkFrom_paths {t : CodeTree} {paths : List (Bits × Byte)} (rest : Bits) (out : Bytes)
    (hnode : t.isNode = true) (hpaths : ∀ x ∈ paths, t.follow x.1 = some (.leaf x.2)) :
    walkFrom t t true (paths.flatMap Prod.fst ++ rest) out =
      walkFrom t t true rest ((paths.map Prod.snd).reverse ++ out) := by
  induction paths generalizing out with
  | nil => rfl
  | cons x paths ih =>
    obtain ⟨hx, hpaths⟩ := List.forall_mem_cons.mp hpaths
    rw [List.flatMap_cons, List.append_assoc, walkFrom_path true _ out hnode hx, ih _ hpaths, List.map_cons,
      List.reverse_cons, List.append_assoc, List.singleton_append]

theorem walk_paths {t : CodeTree} {paths : List (Bits × Byte)} (hnode : t.isNode = true)
    (hpaths : ∀ x ∈ paths, t.follow x.1 = some (.leaf x.2)) :
    walk t (paths.flatMap Prod.fst) = .ok (paths.map Prod.snd) := by
  have h := walkFrom_paths [] [] hnode hpaths
  simpa [walk, walkFrom] using h

/-- Bits that end inside a path are the one error of the walk (R182). -/
theorem walkFrom_error {root n : CodeTree} {atRoot : Bool} {bits : Bits} {out : Bytes} {c : Cause}
    (h : walkFrom root n atRoot bits out = .error c) : c = .fmtBitsTruncated := by
  induction bits generalizing n atRoot out with
  | nil =>
    rw [walkFrom] at h
    split at h <;> cases h
    rfl
  | cons bit bits ih =>
    cases n with
    | leaf b => cases h; rfl
    | node f l r =>
      rw [walkFrom] at h
      split at h <;> exact ih h

theorem walk_error {t : CodeTree} {bits : Bits} {c : Cause} (h : walk t bits = .error c) : c = .fmtBitsTruncated :=
  walkFrom_error h

/-- The walk inverts the codes (R180, R182). -/
theorem walk_codeBitsOf {t : CodeTree} {data : Bytes} (hnode : t.isNode = true) (hdata : ∀ b ∈ data, b ∈ t.leaves) :
    walk t (codeBitsOf t data) = .ok data := by
  have hcodes : ∀ x ∈ data.map fun b => ((deriveCodes t b).getD [], b), t.follow x.1 = some (.leaf x.2) := by
    intro x hx
    obtain ⟨b, hb, rfl⟩ := List.mem_map.mp hx
    obtain ⟨p, hp⟩ := exists_deriveCodes (hdata b hb)
    exact (congrArg (fun c => t.follow (c.getD [])) hp).trans (follow_deriveCodes hp)
  simpa [codeBitsOf, List.flatMap_map, Function.comp_def] using walk_paths hnode hcodes

/-! ### The header line -/

theorem split1_crlf (payload : Bytes) : split1 (crlf ++ payload) = some ([], payload) := rfl

/-- A byte that is no CR begins no CRLF (R108). -/
theorem split1_cons_of_ne_cr {b : Byte} (rest : Bytes) (hb : b ≠ asciiCr) :
    split1 (b :: rest) = (split1 rest).map (Prod.map (b :: ·) id) := by
  rw [split1, if_neg fun ⟨hcr, _⟩ => hb hcr]
  rfl

theorem split1_append_of_not_mem_cr {s : Bytes} (rest : Bytes) (hs : asciiCr ∉ s) :
    split1 (s ++ rest) = (split1 rest).map (Prod.map (s ++ ·) id) := by
  induction s with
  | nil => exact Option.map_id'.symm
  | cons b s ih =>
    rw [List.cons_append, split1_cons_of_ne_cr _ (List.ne_of_not_mem_cons hs).symm,
      ih (List.not_mem_of_not_mem_cons hs), Option.map_map]
    rfl

theorem asciiCr_not_mem_dec (n : Nat) : asciiCr ∉ dec n := by
  obtain ⟨-, hdigits, -⟩ := dec_spec n
  exact fun h => absurd (hdigits asciiCr h) (by decide)

/-- A leaf byte may be CR, but 'l' comes after it (R102, R108). -/
theorem split1_leaf (b : Byte) (rest : Bytes) :
    split1 (b :: asciiLowerL :: asciiComma :: rest) =
      (split1 rest).map (Prod.map (b :: asciiLowerL :: asciiComma :: ·) id) := by
  rw [split1, if_neg fun ⟨_, hlf⟩ => absurd hlf (by simp [asciiLowerL, asciiLf]),
    split1_cons_of_ne_cr _ (by decide : asciiLowerL ≠ asciiCr),
    split1_cons_of_ne_cr _ (by decide : asciiComma ≠ asciiCr), Option.map_map, Option.map_map]
  rfl

/-- The first CRLF is never in a tree stream (R156, R183). -/
theorem split1_serialize_append (t : CodeTree) (rest : Bytes) :
    split1 (serialize t ++ rest) = (split1 rest).map (Prod.map (serialize t ++ ·) id) := by
  induction t generalizing rest with
  | leaf b => exact split1_leaf b rest
  | node f l r ihl ihr =>
    have hcr : asciiCr ∉ dec f.toNat ++ [asciiComma] :=
      List.not_mem_append (asciiCr_not_mem_dec _) (by decide)
    have hsplit : serialize (.node f l r) = (dec f.toNat ++ [asciiComma]) ++ (serialize l ++ serialize r) := by
      simp [serialize]
    rw [hsplit, List.append_assoc, split1_append_of_not_mem_cr _ hcr, List.append_assoc, ihl, ihr, Option.map_map,
      Option.map_map]
    congr 1
    funext p
    simp [Prod.map]

theorem serialize_ne_nil (t : CodeTree) : serialize t ≠ [] :=
  List.ne_nil_of_length_pos (t.size_pos.trans_le t.size_le_serialize_length)

theorem deserialize_ne_nil {s : Bytes} {t : CodeTree} (h : deserialize s = .ok t) : s ≠ [] := by
  rintro rfl
  cases h

/-! ### The body -/

theorem hufEncodeBody_of_tree {data : Bytes} {t : CodeTree} (h : buildTree data = some t) :
    hufEncodeBody data =
      (serialize t ++ crlf ++ packed (codeBitsOf t data), padCount (codeBitsOf t data).length) := by
  simp only [hufEncodeBody, h]

theorem hufDecodeBody_of_no_crlf {s : Bytes} (h : split1 s = none) : hufDecodeBody s = .error .fmtHeaderLines := by
  simp only [hufDecodeBody, h]

theorem hufDecodeBody_of_no_treeLine {s payload : Bytes} (h : split1 s = some ([], payload)) (hpayload : payload ≠ []) :
    hufDecodeBody s = .error .fmtTreeEmpty := by
  simp only [hufDecodeBody, h, if_neg hpayload, if_true]

/-- The checks of R183 once there is a tree line and a payload: the tree, the payload's trailer, the walk. -/
theorem hufDecodeBody_of_lines {s treeLine payload : Bytes} (h : split1 s = some (treeLine, payload))
    (htree : treeLine ≠ []) (hpayload : payload ≠ []) :
    hufDecodeBody s =
      (deserialize treeLine).bind fun t =>
        (unpackBits payload).bind fun u => (walk t u.1).map fun out => (out, some t, u.2) := by
  simp only [hufDecodeBody, h, if_neg hpayload, if_neg htree]
  cases deserialize treeLine with
  | error c => rfl
  | ok t =>
    cases unpackBits payload with
    | error c => rfl
    | ok u => cases hw : walk t u.1 <;> simp [Except.bind, Except.map, hw]

/-- Decoding inverts encoding (R186): the tree line gives the tree back, the payload the codes' bits, the walk the
data. -/
theorem hufDecodeBody_hufEncodeBody (data : Bytes) :
    hufDecodeBody (hufEncodeBody data).1 = .ok (data, buildTree data, (hufEncodeBody data).2) := by
  cases ht : buildTree data with
  | none =>
    obtain rfl := buildTree_eq_none_iff.mp ht
    rfl
  | some t =>
    obtain ⟨hnode, hsize⟩ := buildTree_fitsStore data t ht
    have hlines : split1 (hufEncodeBody data).1 = some (serialize t, packed (codeBitsOf t data)) := by
      rw [hufEncodeBody_of_tree ht, List.append_assoc, split1_serialize_append, split1_crlf]
      simp [Prod.map]
    have hpayload : packed (codeBitsOf t data) ≠ [] := List.ne_nil_of_length_pos (by simp)
    have hwalk : walk t (codeBitsOf t data) = .ok data :=
      walk_codeBitsOf hnode fun b hb => (mem_leaves_buildTree ht).mpr hb
    rw [hufDecodeBody_of_lines hlines (serialize_ne_nil t) hpayload, deserialize_serialize hnode hsize,
      unpackBits_packed, hufEncodeBody_of_tree ht]
    simp only [Except.bind, hwalk, Except.map]

/-! ### The commands -/

/-- DST holds a delivered output (R28, R95). -/
theorem State.deliver_outputIs {s : State} {out : Bytes} (hlegal : s.params.legal = true)
    (hfit : out.length ≤ s.params.dstCap) : (s.deliver out).outputIs out :=
  ⟨State.deliver_dstLen_toNat hlegal hfit, fun i _ => State.deliver_dst_byte? s out i⟩

/-- HUF_ENCODE of an input whose body fits DST (R184). -/
theorem exec_hufEncode_ok {m : BitVec 2} {s : State} (hcap : s.srcLen.toNat ≤ s.params.srcCap)
    (hfit : (hufEncodeBody s.input).1.length ≤ s.params.dstCap) :
    exec (.hufEncode m) s =
      .next ((s.deliver (hufEncodeBody s.input).1).hufEncodeWrites s.input (hufEncodeBody s.input).2).succeed := by
  apply exec_of_ok
  simp only [bodyOf, bodyHufEncode, State.srcInput_eq_input hcap, State.emit_ok hfit]
  rfl

/-- HUF_DECODE of a body whose data fits DST (R185). -/
theorem exec_hufDecode_ok {m : BitVec 2} {s : State} {out : Bytes} {tree : Option CodeTree} {pad : Nat}
    (hcap : s.srcLen.toNat ≤ s.params.srcCap) (h : hufDecodeBody s.input = .ok (out, tree, pad))
    (hfit : out.length ≤ s.params.dstCap) :
    exec (.hufDecode m) s = .next ((s.deliver out).hufDecodeWrites tree pad).succeed := by
  apply exec_of_ok
  simp only [bodyOf, bodyHufDecode, State.srcInput_eq_input hcap, h, State.emit_ok hfit]
  rfl

/-- HUF_DECODE of a body that does not decode raises the error of the failed check (R183, R185). -/
theorem hufDecode_failsWith_of_error {m : BitVec 2} {s : State} {c : Cause} (hcap : s.srcLen.toNat ≤ s.params.srcCap)
    (h : hufDecodeBody s.input = .error c) : s.failsWith (.hufDecode m) c.word := by
  apply failsWith_of_error
  simp only [bodyOf, bodyHufDecode, State.srcInput_eq_input hcap, h]

/-- HUF_DECODE of a body whose data is longer than DST_CAP (R95, R185). -/
theorem bodyHufDecode_capDst {s : State} {out : Bytes} {tree : Option CodeTree} {pad : Nat}
    (hcap : s.srcLen.toNat ≤ s.params.srcCap) (h : hufDecodeBody s.input = .ok (out, tree, pad))
    (hlong : s.params.dstCap < out.length) : bodyHufDecode s = .error .capDst := by
  simp only [bodyHufDecode, State.srcInput_eq_input hcap, h, State.emit_capDst hlong]

end Sys2Proof.Machine
end

section
open Sys2Proof Sys2Proof.Machine

/-- Settles O21: the walk is at the root after each path, and a path that goes on past the last bit leaves it at a
Node below the root. -/
theorem walkReadsPathsToLeaves : Obligations.WalkReadsPathsToLeaves := by
  refine fun t paths hnode hpaths => ⟨walk_paths hnode hpaths, fun rest f l r hne hrest => ?_⟩
  rw [walk, walkFrom_paths rest [] hnode hpaths]
  exact walkFrom_truncated _ (fun hnil => absurd hnil hne) hrest

/-- Settles O22: every byte of the data is a leaf of its tree, and the tree and the bits of the codes survive the
body. -/
theorem hufDecodeInvertsEncode : Obligations.HufDecodeInvertsEncode :=
  fun data _ => ⟨_, _, hufDecodeBody_hufEncodeBody data⟩

/-- Settles O19: the command delivers the body, and the tables are those of the built tree. -/
theorem hufEncodeWritesBodyAndTables : Obligations.HufEncodeWritesBodyAndTables := by
  intro m s hlegal hcap hfit
  obtain ⟨-, hsrc, -⟩ := (Params.legal_iff _).mp hlegal
  have hcodesValid : (buildTree s.input).isSome = !s.input.isEmpty := by
    rw [Bool.eq_iff_iff, Option.isSome_iff_ne_none]
    simp [buildTree_eq_none_iff]
  refine ⟨_, exec_hufEncode_ok hcap hfit, ?_⟩
  rw [State.hufEncodeWrites_eq, hcodesValid]
  refine ⟨rfl, State.deliver_outputIs hlegal hfit, toNat_ofNat_pad (hufEncodeBody_pad_le s.input),
    freqTable_entry s.input (s.input_length ▸ hcap.trans hsrc), ?_, fun t0 ht => ?_⟩
  · exact (toNat_leafCount_word (buildTree s.input)).trans (leafCount_buildTree s.input)
  · simp only [ht, State.succeed_codeLen, State.succeed_codeBits, State.setCodesOf_some]
    exact ⟨rfl, rfl⟩

/-- Settles O20: the command delivers what the body decodes to, and a check that fails, each after those before it have
passed, ends it with its error and the failure column. -/
theorem hufDecodeWritesDataAndTree : Obligations.HufDecodeWritesDataAndTree := by
  refine ⟨fun m s out tree pad hlegal hcap hdec hfit => ?_, fun m s hcap => ⟨fun hnone => ?_,
    fun treeLine payload hlines hpayload => ⟨fun hempty => ?_, fun c htree hparse => ?_, fun t0 hparse => ?_⟩,
    fun out tree pad hdec hlong => ?_⟩⟩
  · obtain ⟨-, hpad⟩ := hufDecodeBody_ok hdec
    exact ⟨_, exec_hufDecode_ok hcap hdec hfit, rfl, State.deliver_outputIs hlegal hfit, toNat_ofNat_pad hpad, hpad,
      toNat_leafCount_word tree⟩
  · exact hufDecode_failsWith_of_error hcap (hufDecodeBody_of_no_crlf hnone)
  · subst hempty
    exact hufDecode_failsWith_of_error hcap (hufDecodeBody_of_no_treeLine hlines hpayload)
  · apply hufDecode_failsWith_of_error hcap
    rw [hufDecodeBody_of_lines hlines htree hpayload, hparse]
    rfl
  · have hbody := hufDecodeBody_of_lines hlines (deserialize_ne_nil hparse) hpayload
    rw [hparse] at hbody
    refine ⟨fun hbad => ?_, fun bits pad c hunpack hwalk => ?_⟩
    · rw [unpackBits_of_malformed (.inr hbad)] at hbody
      exact hufDecode_failsWith_of_error hcap hbody
    · obtain rfl := walk_error hwalk
      simp only [Except.bind, hunpack, hwalk, Except.map] at hbody
      exact hufDecode_failsWith_of_error hcap hbody
  · exact failsWith_of_error (i := .hufDecode m) (bodyHufDecode_capDst hcap hdec hlong)
end

section
/-! ## The RLE codec

Counting equal strides keeps the bytes and the sizes of the units; `RunSeq` names those sizes, and from them follow the
bound of the counts and that the decoder takes each unit back whole (R201, R204, R214, R215). -/

namespace Sys2Proof.Machine

/-! ### Pieces -/

theorem pieces_cons {α : Type} {u fuel : Nat} {s : List α} (hs : s ≠ []) :
    pieces u (fuel + 1) s = s.take u :: pieces u fuel (s.drop u) := by
  simp [pieces, hs]

@[simp] theorem pieces_nil {α : Type} (u fuel : Nat) : pieces u fuel ([] : List α) = [] := by
  cases fuel <;> rfl

theorem pieces_length_le {α : Type} (u fuel : Nat) (s : List α) : (pieces u fuel s).length ≤ fuel := by
  induction fuel generalizing s with
  | zero => rfl
  | succ fuel ih =>
    by_cases hs : s = []
    · simp [hs]
    · rw [pieces_cons hs, List.length_cons]
      exact Nat.succ_le_succ (ih _)

/-- The fuel that is left after one piece is enough for the rest. -/
theorem length_drop_le_fuel {α : Type} {u fuel : Nat} {s : List α} (hu : 1 ≤ u) (hfuel : s.length ≤ fuel + 1) :
    (s.drop u).length ≤ fuel := by
  rw [List.length_drop]
  omega

/-- Fuel beyond the length changes nothing. -/
theorem pieces_eq_of_fuel {α : Type} {u fuel fuel' : Nat} {s : List α} (hu : 1 ≤ u) (hfuel : s.length ≤ fuel)
    (hfuel' : s.length ≤ fuel') : pieces u fuel s = pieces u fuel' s := by
  induction fuel generalizing fuel' s with
  | zero => simp [List.length_eq_zero_iff.mp (Nat.le_zero.mp hfuel)]
  | succ fuel ih =>
    by_cases hs : s = []
    · simp [hs]
    · obtain ⟨fuel', rfl⟩ := Nat.exists_eq_add_of_le' ((List.length_pos_of_ne_nil hs).trans_le hfuel')
      rw [pieces_cons hs, pieces_cons hs, ih (length_drop_le_fuel hu hfuel) (length_drop_le_fuel hu hfuel')]

theorem pieces_flatten {α : Type} {u fuel : Nat} {s : List α} (hu : 1 ≤ u) (hfuel : s.length ≤ fuel) :
    (pieces u fuel s).flatten = s := by
  induction fuel generalizing s with
  | zero => simp [List.length_eq_zero_iff.mp (Nat.le_zero.mp hfuel)]
  | succ fuel ih =>
    by_cases hs : s = []
    · simp [hs]
    · rw [pieces_cons hs, List.flatten_cons, ih (length_drop_le_fuel hu hfuel), List.take_append_drop]

theorem ne_nil_and_length_le_of_mem_pieces {α : Type} {u fuel : Nat} {s p : List α} (hu : 1 ≤ u)
    (hp : p ∈ pieces u fuel s) : p ≠ [] ∧ p.length ≤ u := by
  induction fuel generalizing s with
  | zero => cases hp
  | succ fuel ih =>
    by_cases hs : s = []
    · simp [hs] at hp
    · rw [pieces_cons hs] at hp
      obtain rfl | hp := List.mem_cons.mp hp
      · exact ⟨by rw [Ne, List.take_eq_nil_iff]; exact not_or.mpr ⟨by omega, hs⟩, List.length_take_le u s⟩
      · exact ih hp

/-! ### Counts, literals and expansion of runs -/

@[simp] theorem expandRuns_cons (run : Run) (runs : List Run) :
    expandRuns (run :: runs) = (List.replicate run.1 run.2).flatten ++ expandRuns runs := rfl

@[simp] theorem runCounts_nil : runCounts [] = [] := rfl

@[simp] theorem runCounts_cons (run : Run) (runs : List Run) : runCounts (run :: runs) = run.1 :: runCounts runs := rfl

@[simp] theorem runCounts_append (rs ss : List Run) : runCounts (rs ++ ss) = runCounts rs ++ runCounts ss :=
  List.map_append

@[simp] theorem runCounts_length (runs : List Run) : (runCounts runs).length = runs.length := List.length_map _

@[simp] theorem runLiterals_nil : runLiterals [] = [] := rfl

@[simp] theorem runLiterals_cons (run : Run) (runs : List Run) :
    runLiterals (run :: runs) = run.2 ++ runLiterals runs := rfl

@[simp] theorem runLiterals_append (rs ss : List Run) : runLiterals (rs ++ ss) = runLiterals rs ++ runLiterals ss :=
  List.flatMap_append

@[simp] theorem expandRuns_append (rs ss : List Run) : expandRuns (rs ++ ss) = expandRuns rs ++ expandRuns ss := by
  induction rs with
  | nil => rfl
  | cons run rs ih => simp [ih]

theorem expandRuns_flatMap {α : Type} (f : α → List Run) (l : List α) :
    expandRuns (l.flatMap f) = l.flatMap fun a => expandRuns (f a) := by
  induction l with
  | nil => rfl
  | cons a l ih => simp [ih]

/-- The bytes of one run are among those of all. -/
theorem run_length_le_expandRuns {run : Run} {runs : List Run} (h : run ∈ runs) :
    run.1 * run.2.length ≤ (expandRuns runs).length := by
  induction runs with
  | nil => cases h
  | cons r runs ih =>
    have hlen : (expandRuns (r :: runs)).length = r.1 * r.2.length + (expandRuns runs).length := by simp
    obtain rfl | h := List.mem_cons.mp h
    · omega
    · have := ih h
      omega

/-! ### The sizes of the units -/

/-- Strides before equal neighbours are counted: each is a run of its own (R201). -/
def strideRuns (strides : List Bytes) : List Run := strides.map (1, ·)

theorem strideRuns_cons (st : Bytes) (rest : List Bytes) : strideRuns (st :: rest) = (1, st) :: strideRuns rest := rfl

theorem expandRuns_strideRuns (strides : List Bytes) : expandRuns (strideRuns strides) = strides.flatten := by
  induction strides with
  | nil => rfl
  | cons st rest ih => simp [strideRuns_cons, ih]

/-- The runs of one chunk under the unit size `u`: every unit has the unit size, but the last one may be a shorter one
that stands once (R201). -/
inductive RunSeq (u : Nat) : List Run → Prop
  | last {k : Nat} {unit : Bytes} (hcount : 1 ≤ k) (hpos : 1 ≤ unit.length) (hle : unit.length ≤ u)
      (hshort : unit.length = u ∨ k = 1) : RunSeq u [(k, unit)]
  | cons {k : Nat} {unit : Bytes} {runs : List Run} (hcount : 1 ≤ k) (hunit : unit.length = u)
      (hruns : RunSeq u runs) : RunSeq u ((k, unit) :: runs)

theorem RunSeq.one_le {u : Nat} {runs : List Run} (h : RunSeq u runs) : 1 ≤ u := by
  induction h with
  | last _ hpos hle _ => exact hpos.trans hle
  | cons _ _ _ ih => exact ih

theorem RunSeq.ne_nil {u : Nat} {runs : List Run} (h : RunSeq u runs) : runs ≠ [] := by
  cases h <;> exact List.cons_ne_nil _ _

theorem RunSeq.of_mem {u : Nat} {runs : List Run} (h : RunSeq u runs) {run : Run} (hrun : run ∈ runs) :
    1 ≤ run.1 ∧ 1 ≤ run.2.length ∧ run.2.length ≤ u ∧ (run.2.length = u ∨ run.1 = 1) := by
  induction h with
  | last hcount hpos hle hshort =>
    obtain rfl := List.mem_singleton.mp hrun
    exact ⟨hcount, hpos, hle, hshort⟩
  | cons hcount hunit hruns ih =>
    obtain rfl | hrun := List.mem_cons.mp hrun
    · exact ⟨hcount, hunit ▸ hruns.one_le, hunit.le, .inl hunit⟩
    · exact ih hrun

theorem RunSeq.of_mem_dropLast {u : Nat} {runs : List Run} (h : RunSeq u runs) {run : Run}
    (hrun : run ∈ runs.dropLast) : run.2.length = u := by
  induction h with
  | last _ _ _ _ => cases hrun
  | cons _ hunit hruns ih =>
    rw [List.dropLast_cons_of_ne_nil hruns.ne_nil] at hrun
    obtain rfl | hrun := List.mem_cons.mp hrun
    · exact hunit
    · exact ih hrun

/-- A unit of the unit size may stand any number of times. -/
theorem RunSeq.set_count {u k k' : Nat} {unit : Bytes} {runs : List Run} (h : RunSeq u ((k, unit) :: runs))
    (hunit : unit.length = u) (hk : 1 ≤ k') : RunSeq u ((k', unit) :: runs) := by
  cases h with
  | last _ hpos hle _ => exact .last hk hpos hle (.inl hunit)
  | cons _ _ hruns => exact .cons hk hunit hruns

theorem RunSeq.one_le_length_expandRuns {u : Nat} {runs : List Run} (h : RunSeq u runs) :
    1 ≤ (expandRuns runs).length := by
  obtain ⟨run, hrun⟩ := List.exists_mem_of_ne_nil _ h.ne_nil
  obtain ⟨hcount, hpos, -⟩ := h.of_mem hrun
  exact (Nat.mul_le_mul hcount hpos).trans (run_length_le_expandRuns hrun)

/-- Pieces of `u` bytes, the last one possibly shorter, are the units of runs. -/
theorem runSeq_strideRuns_pieces {u fuel : Nat} {s : Bytes} (hu : 1 ≤ u) (hfuel : s.length ≤ fuel) (hs : s ≠ []) :
    RunSeq u (strideRuns (pieces u fuel s)) := by
  induction fuel generalizing s with
  | zero => exact absurd (List.length_eq_zero_iff.mp (Nat.le_zero.mp hfuel)) hs
  | succ fuel ih =>
    have hpos := List.length_pos_of_ne_nil hs
    rw [pieces_cons hs, strideRuns_cons]
    by_cases hlast : s.length ≤ u
    · rw [List.drop_eq_nil_of_le hlast, pieces_nil, List.take_of_length_le hlast]
      exact .last le_rfl hpos hlast (.inr rfl)
    · have hrest : s.drop u ≠ [] := List.ne_nil_of_length_pos (by rw [List.length_drop]; omega)
      exact .cons le_rfl (List.length_take_of_le (by omega)) (ih (length_drop_le_fuel hu hfuel) hrest)

/-! ### Counting equal strides -/

/-- Counting keeps the bytes (R201). -/
theorem expandRuns_extendRun (cur : Bytes) (k : Nat) (strides : List Bytes) :
    expandRuns (extendRun cur k strides) = expandRuns ((k, cur) :: strideRuns strides) := by
  induction strides generalizing cur k with
  | nil => rfl
  | cons st rest ih =>
    rw [extendRun, strideRuns_cons]
    split
    · rename_i h
      obtain ⟨rfl, -⟩ := h
      simp [ih, List.replicate_succ']
    · simp only [expandRuns_cons, ih]

/-- Counting keeps the sizes of the units (R201). -/
theorem runSeq_extendRun {u k : Nat} {cur : Bytes} {strides : List Bytes}
    (h : RunSeq u ((k, cur) :: strideRuns strides)) : RunSeq u (extendRun cur k strides) := by
  induction strides generalizing cur k with
  | nil => exact h
  | cons st rest ih =>
    rw [extendRun]
    cases h with
    | cons hcount hunit hruns =>
      split
      · rename_i heq
        obtain ⟨rfl, -⟩ := heq
        exact ih (hruns.set_count hunit (Nat.le_add_left 1 k))
      · exact .cons hcount hunit (ih hruns)

/-- The units are the strides without repetitions, where no count reaches RUN_CAP (R201). -/
theorem map_snd_extendRun {cur : Bytes} {k : Nat} {strides : List Bytes} (hcap : k + strides.length ≤ Config.runCap) :
    (extendRun cur k strides).map Prod.snd = strides.destutter' (· ≠ ·) cur := by
  induction strides generalizing cur k with
  | nil => rfl
  | cons st rest ih =>
    rw [List.length_cons] at hcap
    rw [extendRun]
    by_cases heq : st = cur
    · subst heq
      rw [if_pos ⟨rfl, by omega⟩, List.destutter'_cons_neg _ (not_not.mpr rfl), ih (by omega)]
    · rw [if_neg (fun h => heq h.1), List.destutter'_cons_pos _ (Ne.symm heq), List.map_cons, ih (by omega)]

/-! ### The runs of a chunk -/

theorem encodeChunk_of_length_le {ch : Bytes} {u : Nat} (h : ch.length ≤ u) : encodeChunk ch u = [(1, ch)] := if_pos h

/-- A chunk longer than the unit size is its strides, counted (R201). -/
theorem encodeChunk_of_lt_length {ch : Bytes} {u : Nat} (h : u < ch.length) :
    ∃ st rest, pieces u ch.length ch = st :: rest ∧ encodeChunk ch u = extendRun st 1 rest := by
  have hne : ch ≠ [] := List.ne_nil_of_length_pos (by omega)
  obtain ⟨n, hn⟩ := Nat.exists_eq_add_of_le' (List.length_pos_of_ne_nil hne)
  have hpieces : pieces u ch.length ch = ch.take u :: pieces u n (ch.drop u) := hn ▸ pieces_cons hne
  exact ⟨_, _, hpieces, by rw [encodeChunk, if_neg (by omega), hpieces, runsOf]⟩

theorem expandRuns_encodeChunk {ch : Bytes} {u : Nat} (hu : 1 ≤ u) : expandRuns (encodeChunk ch u) = ch := by
  by_cases h : ch.length ≤ u
  · simp [encodeChunk_of_length_le h, expandRuns]
  · obtain ⟨st, rest, hpieces, hruns⟩ := encodeChunk_of_lt_length (Nat.lt_of_not_le h)
    rw [hruns, expandRuns_extendRun, ← strideRuns_cons, ← hpieces, expandRuns_strideRuns, pieces_flatten hu le_rfl]

theorem runSeq_encodeChunk {ch : Bytes} {u : Nat} (hu : 1 ≤ u) (hne : ch ≠ []) : RunSeq u (encodeChunk ch u) := by
  by_cases h : ch.length ≤ u
  · rw [encodeChunk_of_length_le h]
    exact .last le_rfl (List.length_pos_of_ne_nil hne) h (.inr rfl)
  · obtain ⟨st, rest, hpieces, hruns⟩ := encodeChunk_of_lt_length (Nat.lt_of_not_le h)
    have hstrides := runSeq_strideRuns_pieces hu (le_refl ch.length) hne
    rw [hpieces] at hstrides
    exact hruns ▸ runSeq_extendRun hstrides

/-- Neighbouring units differ, where the chunk has at most RUN_CAP bytes (R201). -/
theorem encodeChunk_isChain {ch : Bytes} {u : Nat} (hlen : ch.length ≤ Config.runCap) :
    (encodeChunk ch u).IsChain fun x y => x.2 ≠ y.2 := by
  by_cases h : ch.length ≤ u
  · rw [encodeChunk_of_length_le h]
    exact List.isChain_singleton _
  · obtain ⟨st, rest, hpieces, hruns⟩ := encodeChunk_of_lt_length (Nat.lt_of_not_le h)
    have hcap : 1 + rest.length ≤ Config.runCap := by
      have hcount := pieces_length_le u ch.length ch
      rw [hpieces, List.length_cons] at hcount
      omega
    have hunits := List.isChain_destutter' (R := fun x y : Bytes => x ≠ y) rest st
    rw [← map_snd_extendRun hcap, ← hruns] at hunits
    exact (List.isChain_map Prod.snd).mp hunits

/-! ### The runs of the data -/

@[simp] theorem rleRuns_nil (u : Nat) : rleRuns [] u = [] := rfl

/-- The runs of the first chunk come before those of the rest (R202). -/
theorem rleRuns_of_ne_nil {data : Bytes} (u : Nat) (h : data ≠ []) :
    rleRuns data u = encodeChunk (data.take Config.chunk) u ++ rleRuns (data.drop Config.chunk) u := by
  have hfuel : data.length ≤ (data.length - 1) + 1 := by omega
  rw [rleRuns, pieces_eq_of_fuel (by decide) le_rfl hfuel, pieces_cons h, List.flatMap_cons,
    pieces_eq_of_fuel (by decide) (length_drop_le_fuel (by decide) hfuel) le_rfl, rleRuns]

theorem expandRuns_rleRuns {data : Bytes} {u : Nat} (hu : 1 ≤ u) : expandRuns (rleRuns data u) = data := by
  rw [rleRuns, expandRuns_flatMap]
  simp only [expandRuns_encodeChunk hu, List.flatMap_id']
  exact pieces_flatten (by decide) le_rfl

/-- A run is one of a chunk of 1 to 1000 bytes (R202). -/
theorem exists_chunk_of_mem_rleRuns {data : Bytes} {u : Nat} {run : Run} (h : run ∈ rleRuns data u) :
    ∃ ch : Bytes, ch ≠ [] ∧ ch.length ≤ 1000 ∧ run ∈ encodeChunk ch u := by
  obtain ⟨ch, hch, hrun⟩ := List.mem_flatMap.mp h
  obtain ⟨hne, hle⟩ := ne_nil_and_length_le_of_mem_pieces (by decide) hch
  exact ⟨ch, hne, hle, hrun⟩

/-- A count above 1 is of whole units, which fit the chunk (R214). -/
theorem count_le_of_mem_rleRuns {data : Bytes} {u : Nat} {run : Run} (hu : 1 ≤ u) (h : run ∈ rleRuns data u) :
    1 ≤ run.1 ∧ run.1 ≤ (1000 + u - 1) / u ∧ run.1 ≤ 1000 := by
  obtain ⟨ch, hne, hle, hrun⟩ := exists_chunk_of_mem_rleRuns h
  obtain ⟨hcount, hpos, -, hshort⟩ := (runSeq_encodeChunk hu hne).of_mem hrun
  have hfits : run.1 * run.2.length ≤ 1000 := by
    have hbytes := run_length_le_expandRuns hrun
    rw [expandRuns_encodeChunk hu] at hbytes
    exact hbytes.trans hle
  refine ⟨hcount, (Nat.le_div_iff_mul_le hu).mpr ?_, (Nat.le_mul_of_pos_right _ hpos).trans hfits⟩
  obtain hwhole | hone := hshort
  · rw [hwhole] at hfits
    omega
  · rw [hone]
    omega

end Sys2Proof.Machine
end

section
open Sys2Proof Sys2Proof.Machine

/-- Settles O23: counting keeps the bytes and the sizes of the strides, and leaves no two equal neighbours. -/
theorem chunkRunsAreExactAndMaximal : Obligations.ChunkRunsAreExactAndMaximal := by
  refine fun ch u hlen hu => ⟨expandRuns_encodeChunk hu, encodeChunk_of_length_le, fun hlong => ?_⟩
  have hseq := runSeq_encodeChunk hu (List.ne_nil_of_length_pos (by omega : 0 < ch.length))
  refine ⟨fun x hx => hseq.of_mem_dropLast hx, fun x hx => ?_, encodeChunk_isChain (hlen.trans (by decide))⟩
  obtain ⟨-, hpos, hle, -⟩ := hseq.of_mem hx
  exact ⟨hpos, hle⟩

/-- Settles O24: the chunks make up the data, and the units of a count above 1 are whole and inside one chunk. -/
theorem runCountsAreBounded : Obligations.RunCountsAreBounded :=
  fun _ _ hu => ⟨expandRuns_rleRuns hu, fun _ hx => count_le_of_mem_rleRuns hu hx⟩
end

section
/-! ## The RLE body and its decoder -/

namespace Sys2Proof.Machine

/-! ### Lines -/

/-- A split takes the CRLF away, so a line is shorter than what it was split from (R108). -/
theorem length_of_split1 {s line rest : Bytes} (h : split1 s = some (line, rest)) :
    line.length + 2 + rest.length = s.length := by
  induction s generalizing line with
  | nil => cases h
  | cons b s ih =>
    rw [split1] at h
    split at h
    · rename_i hcrlf
      cases h
      obtain ⟨-, hlf⟩ := hcrlf
      cases s with
      | nil => cases hlf
      | cons c s =>
        simp only [List.length_nil, List.tail_cons, List.length_cons]
        omega
    · obtain ⟨⟨line', rest'⟩, hsplit, heq⟩ := Option.map_eq_some_iff.mp h
      cases heq
      have hlen : line'.length + 2 + rest'.length = s.length := ih hsplit
      simp only [List.length_cons]
      omega

/-! ### Numbers -/

theorem num_of_not_bad {f : Bytes} {lo hi : Nat} (h : ¬badNumber f lo hi) : num f lo hi = .ok (val f) := by
  simp only [badNumber, not_or, not_exists, not_and, Bool.not_eq_false, Nat.not_lt] at h
  obtain ⟨hne, hdigits, hlo, hhi⟩ := h
  exact if_pos ⟨hne, List.all_eq_true.mpr hdigits, hlo, hhi⟩

theorem num_of_bad {f : Bytes} {lo hi : Nat} (h : badNumber f lo hi) : num f lo hi = .error .fmtNumber := by
  apply if_neg
  rintro ⟨hne, hdigits, hlo, hhi⟩
  obtain hnil | ⟨c, hc, hbad⟩ | hlow | hhigh := h
  · exact hne hnil
  · exact absurd (List.all_eq_true.mp hdigits c hc) (by simp [hbad])
  · omega
  · omega

/-- A numeral reads back (R107, R109). -/
theorem num_dec {n lo hi : Nat} (hlo : lo ≤ n) (hhi : n ≤ hi) : num (dec n) lo hi = .ok n := by
  obtain ⟨hne, hdigits, hval⟩ := dec_spec n
  refine (if_pos ⟨hne, List.all_eq_true.mpr hdigits, ?_, ?_⟩).trans (congrArg _ hval) <;> rwa [hval]

/-! ### Counts -/

theorem splitCommas_ne_nil (s : Bytes) : splitCommas s ≠ [] := by
  cases s with
  | nil => exact List.cons_ne_nil _ _
  | cons b s =>
    rw [splitCommas]
    split
    · exact List.cons_ne_nil _ _
    · split <;> exact List.cons_ne_nil _ _

theorem splitCommas_cons_of_ne_comma {b : Byte} {s f : Bytes} {fs : List Bytes} (hb : b ≠ asciiComma)
    (h : splitCommas s = f :: fs) : splitCommas (b :: s) = (b :: f) :: fs := by
  rw [splitCommas, if_neg hb, h]

theorem splitCommas_comma (s : Bytes) : splitCommas (asciiComma :: s) = [] :: splitCommas s := by
  rw [splitCommas, if_pos rfl]

/-- A sequence without a comma belongs to the first field (R107). -/
theorem splitCommas_append {s t f : Bytes} {fs : List Bytes} (hs : asciiComma ∉ s) (h : splitCommas t = f :: fs) :
    splitCommas (s ++ t) = (s ++ f) :: fs := by
  induction s with
  | nil => exact h
  | cons b s ih =>
    exact splitCommas_cons_of_ne_comma (List.ne_of_not_mem_cons hs).symm (ih (List.not_mem_of_not_mem_cons hs))

theorem length_splitCommas_le (s : Bytes) : (splitCommas s).length ≤ s.length + 1 := by
  induction s with
  | nil => exact le_rfl
  | cons b s ih =>
    by_cases hb : b = asciiComma
    · rw [hb, splitCommas_comma]
      exact Nat.succ_le_succ ih
    · obtain ⟨f, fs, hfs⟩ := List.exists_cons_of_ne_nil (splitCommas_ne_nil s)
      rw [splitCommas_cons_of_ne_comma hb hfs]
      rw [hfs] at ih
      exact ih.trans (Nat.le_succ _)

theorem not_mem_dec_of_not_digit {c : Byte} (n : Nat) (hc : isDigit c = false) : c ∉ dec n := by
  obtain ⟨-, hdigits, -⟩ := dec_spec n
  exact fun h => absurd (hdigits c h) (by simp [hc])

theorem countsLine_cons_cons (k k' : Nat) (ks : List Nat) :
    countsLine (k :: k' :: ks) = dec k ++ asciiComma :: countsLine (k' :: ks) := rfl

/-- The fields of a counts line are the numerals (R203). -/
theorem splitCommas_countsLine (k : Nat) (ks : List Nat) :
    splitCommas (countsLine (k :: ks)) = (k :: ks).map dec := by
  have hcomma : ∀ n, asciiComma ∉ dec n := fun n => not_mem_dec_of_not_digit n (by decide)
  induction ks generalizing k with
  | nil => simpa [countsLine] using splitCommas_append (t := []) (hcomma k) rfl
  | cons k' ks ih =>
    rw [countsLine_cons_cons, splitCommas_append (hcomma k) (splitCommas_comma _), ih, List.append_nil]
    rfl

theorem asciiCr_not_mem_countsLine (ks : List Nat) : asciiCr ∉ countsLine ks := by
  match ks with
  | [] => exact List.not_mem_nil
  | [k] => exact asciiCr_not_mem_dec k
  | k :: k' :: ks =>
    rw [countsLine_cons_cons]
    exact List.not_mem_append (asciiCr_not_mem_dec k)
      (List.not_mem_cons_of_ne_of_not_mem (by decide) (asciiCr_not_mem_countsLine (k' :: ks)))

/-- Every count takes a byte of the line or more. -/
theorem length_le_length_countsLine (ks : List Nat) : ks.length ≤ (countsLine ks).length := by
  have hdec : ∀ n, 1 ≤ (dec n).length := fun n => List.length_pos_of_ne_nil (dec_spec n).1
  match ks with
  | [] => exact le_rfl
  | [k] => exact hdec k
  | k :: k' :: ks =>
    have hrest := length_le_length_countsLine (k' :: ks)
    have hk := hdec k
    simp only [countsLine_cons_cons, List.length_append, List.length_cons] at hrest ⊢
    omega

theorem parseFields_map_dec {ks : List Nat} (h : ∀ k ∈ ks, 1 ≤ k ∧ k ≤ Config.runCap) :
    parseFields (ks.map dec) = .ok ks := by
  induction ks with
  | nil => rfl
  | cons k ks ih =>
    obtain ⟨⟨hlo, hhi⟩, hks⟩ := List.forall_mem_cons.mp h
    rw [List.map_cons, parseFields, num_dec hlo hhi, ih hks]

theorem parseCounts_of_ne_nil {s : Bytes} (h : s ≠ []) : parseCounts s = parseFields (splitCommas s) := if_neg h

/-- A counts line reads back (R107, R203). -/
theorem parseCounts_countsLine {ks : List Nat} (h : ∀ k ∈ ks, 1 ≤ k ∧ k ≤ Config.runCap) :
    parseCounts (countsLine ks) = .ok ks := by
  cases ks with
  | nil => rfl
  | cons k ks =>
    have hne : countsLine (k :: ks) ≠ [] :=
      List.ne_nil_of_length_pos ((Nat.succ_pos _).trans_le (length_le_length_countsLine (k :: ks)))
    rw [parseCounts_of_ne_nil hne, splitCommas_countsLine, parseFields_map_dec h]

theorem length_of_parseFields {fs : List Bytes} {ks : List Nat} (h : parseFields fs = .ok ks) :
    ks.length = fs.length := by
  induction fs generalizing ks with
  | nil => cases h; rfl
  | cons f fs ih =>
    rw [parseFields] at h
    split at h
    · cases h
    · split at h
      · cases h
      · rename_i hfs
        cases h
        exact congrArg Nat.succ (ih hfs)

theorem length_of_parseCounts {s : Bytes} {ks : List Nat} (h : parseCounts s = .ok ks) :
    ks.length ≤ s.length + 1 := by
  by_cases hs : s = []
  · subst hs
    cases h
    exact Nat.zero_le _
  · rw [parseCounts_of_ne_nil hs] at h
    exact (length_of_parseFields h).trans_le (length_splitCommas_le s)

/-- One bad field makes the line bad (R107). -/
theorem parseFields_of_bad {fs : List Bytes} (h : ∃ f ∈ fs, badNumber f 1 Config.runCap) :
    parseFields fs = .error .fmtNumber := by
  induction fs with
  | nil => obtain ⟨f, hf, -⟩ := h; cases hf
  | cons f fs ih =>
    rw [parseFields]
    by_cases hbad : badNumber f 1 Config.runCap
    · rw [num_of_bad hbad]
    · obtain ⟨g, hg, hbadg⟩ := h
      have hgfs : g ∈ fs := (List.mem_cons.mp hg).resolve_left fun heq => hbad (heq ▸ hbadg)
      rw [num_of_not_bad hbad, ih ⟨g, hgfs, hbadg⟩]

theorem parseCounts_of_bad {s : Bytes} (hs : s ≠ []) (h : ∃ f ∈ splitCommas s, badNumber f 1 Config.runCap) :
    parseCounts s = .error .fmtNumber := by
  rw [parseCounts_of_ne_nil hs, parseFields_of_bad h]

/-! ### Replay -/

/-- Literals left over are the one error of the replay (R205). -/
theorem replay_error {u rem : Nat} {counts : List Nat} {lits : Bytes} {c : Cause}
    (h : replay u counts rem lits = .error c) : c = .fmtRleLiterals := by
  induction counts generalizing rem lits with
  | nil =>
    rw [replay] at h
    split at h <;> cases h
    rfl
  | cons k ks ih =>
    rw [replay] at h
    split at h
    · cases h
    · split at h
      · rename_i hrest
        cases h
        exact ih hrest
      · cases h

/-- The replay of a run whose unit is what it takes: the next one starts behind it, or at a new chunk (R204). -/
theorem replay_unit {u k rem : Nat} {ks : List Nat} {unit lits : Bytes} (hpos : 1 ≤ unit.length)
    (htake : min u (min rem (unit ++ lits).length) = unit.length) :
    replay u (k :: ks) rem (unit ++ lits) =
      (replay u ks (if rem ≤ k * unit.length then Config.chunk else rem - k * unit.length) lits).map
        ((k, unit) :: ·) := by
  rw [replay]
  simp only [htake, if_neg (show unit.length ≠ 0 by omega), List.drop_left, List.take_left]
  split <;> rename_i hrest <;> rw [hrest] <;> rfl

/-- The replay takes every unit of a chunk back whole: a chunk that fills what is left starts a new one, and one that
does not is the last (R204). -/
theorem replay_runSeq {u rem : Nat} {runs : List Run} {ks : List Nat} {lits : Bytes} (h : RunSeq u runs)
    (hfill : (expandRuns runs).length = rem ∨ (expandRuns runs).length ≤ rem ∧ ks = [] ∧ lits = []) :
    replay u (runCounts runs ++ ks) rem (runLiterals runs ++ lits) =
      (replay u ks Config.chunk lits).map (runs ++ ·) := by
  induction h generalizing rem with
  | @last k unit hcount hpos hle hshort =>
    have hlen : (expandRuns [(k, unit)]).length = k * unit.length := by simp [expandRuns]
    have hone : unit.length ≤ k * unit.length := Nat.le_mul_of_pos_left _ hcount
    rw [hlen] at hfill
    have htake : min u (min rem (unit ++ lits).length) = unit.length := by
      rw [List.length_append]
      obtain rfl | ⟨hrem, -, rfl⟩ := hfill
      · obtain hwhole | rfl := hshort <;> omega
      · rw [List.length_nil, Nat.add_zero]
        omega
    have hrun := replay_unit (k := k) (ks := ks) hpos htake
    obtain rfl | ⟨-, rfl, rfl⟩ := hfill
    · rw [if_pos le_rfl] at hrun
      simpa using hrun
    · simpa [replay] using hrun
  | @cons k unit runs hcount hunit hruns ih =>
    have hlen : (expandRuns ((k, unit) :: runs)).length = k * unit.length + (expandRuns runs).length := by simp
    have hone : unit.length ≤ k * unit.length := Nat.le_mul_of_pos_left _ hcount
    have hpos := hruns.one_le
    have hmore := hruns.one_le_length_expandRuns
    rw [hlen] at hfill
    have htake : min u (min rem (unit ++ (runLiterals runs ++ lits)).length) = unit.length := by
      rw [List.length_append]
      omega
    have hrun := replay_unit (k := k) (ks := runCounts runs ++ ks) (hunit ▸ hpos) htake
    rw [if_neg (by omega), ih (hfill.imp (by omega) (And.imp_left (by omega)))] at hrun
    rw [runCounts_cons, runLiterals_cons, List.cons_append, List.append_assoc, hrun]
    cases replay u ks Config.chunk lits <;> rfl

/-- The replay gives the runs of all chunks back (R202, R204). -/
theorem replay_rleRuns (data : Bytes) {u : Nat} (hu : 1 ≤ u) :
    replay u (runCounts (rleRuns data u)) Config.chunk (runLiterals (rleRuns data u)) = .ok (rleRuns data u) := by
  by_cases hdata : data = []
  · simp [hdata, replay]
  · have hpos := List.length_pos_of_ne_nil hdata
    have hchunk : (data.take Config.chunk).length = min Config.chunk data.length := List.length_take
    have hne : data.take Config.chunk ≠ [] := by simp [hdata, Config.chunk]
    have hrest := replay_rleRuns (data.drop Config.chunk) hu
    have hfill : (expandRuns (encodeChunk (data.take Config.chunk) u)).length = Config.chunk ∨
        (expandRuns (encodeChunk (data.take Config.chunk) u)).length ≤ Config.chunk ∧
          runCounts (rleRuns (data.drop Config.chunk) u) = [] ∧
          runLiterals (rleRuns (data.drop Config.chunk) u) = [] := by
      rw [expandRuns_encodeChunk hu, hchunk]
      by_cases hfull : Config.chunk ≤ data.length
      · exact .inl (Nat.min_eq_left hfull)
      · rw [List.drop_eq_nil_of_le (Nat.le_of_not_le hfull)]
        exact .inr ⟨Nat.min_le_left _ _, rfl, rfl⟩
    rw [rleRuns_of_ne_nil u hdata, runCounts_append, runLiterals_append,
      replay_runSeq (runSeq_encodeChunk hu hne) hfill, hrest]
    rfl
termination_by data.length
decreasing_by rw [List.length_drop, Config.chunk]; omega

/-! ### The bodies -/

theorem chunkDecodeBody_of_no_crlf {u : Nat} {s : Bytes} (h : split1 s = none) :
    chunkDecodeBody u s = .error .fmtHeaderLines := by
  simp only [chunkDecodeBody, h]

/-- The checks of R211 once there is a counts line: the counts, then the literals. -/
theorem chunkDecodeBody_of_line {u : Nat} {s line lits : Bytes} (h : split1 s = some (line, lits)) :
    chunkDecodeBody u s = (parseCounts line).bind fun counts =>
      (replay u counts Config.chunk lits).map fun runs => (runs, counts.length) := by
  simp only [chunkDecodeBody, h]
  cases parseCounts line with
  | error c => rfl
  | ok counts => cases hr : replay u counts Config.chunk lits <;> simp [Except.bind, Except.map, hr]

theorem rleDecodeBody_of_no_crlf {s : Bytes}
    (h : split1 s = none ∨ ∃ line rest, split1 s = some (line, rest) ∧ split1 rest = none) :
    rleDecodeBody s = .error .fmtHeaderLines := by
  obtain h | ⟨line, rest, h, hrest⟩ := h
  · simp only [rleDecodeBody, h]
  · simp only [rleDecodeBody, h, hrest]

/-- A body with its two lines is a chunk body under the unit size of its first line (R206, R211). -/
theorem rleDecodeBody_of_lines {s unitLine rest countLine lits : Bytes} (h : split1 s = some (unitLine, rest))
    (hrest : split1 rest = some (countLine, lits)) :
    rleDecodeBody s = (num unitLine 1 (2 ^ 32 - 1)).bind fun u => chunkDecodeBody u rest := by
  simp only [rleDecodeBody, h, hrest, chunkDecodeBody]
  cases num unitLine 1 (2 ^ 32 - 1) <;> rfl

theorem split1_line {line : Bytes} (rest : Bytes) (hcr : asciiCr ∉ line) :
    split1 (line ++ crlf ++ rest) = some (line, rest) := by
  rw [List.append_assoc, split1_append_of_not_mem_cr _ hcr, split1_crlf]
  simp

/-- Decoding inverts encoding (R215): both lines read back, and the replay takes the runs back. -/
theorem rleDecodeBody_rleEncodeBody {data : Bytes} {u : Nat} (hu : 1 ≤ u) (hreg : u < 2 ^ 32) :
    rleDecodeBody (rleEncodeBody data u) = .ok (rleRuns data u, (rleRuns data u).length) := by
  have hcounts : ∀ k ∈ runCounts (rleRuns data u), 1 ≤ k ∧ k ≤ Config.runCap := by
    intro k hk
    obtain ⟨run, hrun, rfl⟩ := List.mem_map.mp hk
    obtain ⟨hlo, -, hhi⟩ := count_le_of_mem_rleRuns hu hrun
    exact ⟨hlo, hhi.trans (by decide)⟩
  have hunitLine : split1 (rleEncodeBody data u) = some (dec u, chunkBody (rleRuns data u)) :=
    split1_line _ (asciiCr_not_mem_dec u)
  have hcountLine : split1 (chunkBody (rleRuns data u)) =
      some (countsLine (runCounts (rleRuns data u)), runLiterals (rleRuns data u)) :=
    split1_line _ (asciiCr_not_mem_countsLine _)
  rw [rleDecodeBody_of_lines hunitLine hcountLine, num_dec hu (by omega)]
  refine (chunkDecodeBody_of_line hcountLine).trans ?_
  rw [parseCounts_countsLine hcounts]
  simp only [Except.bind, replay_rleRuns data hu, Except.map, runCounts_length]

end Sys2Proof.Machine
end

section
open Sys2Proof Sys2Proof.Machine

/-- Settles O25: the decoder reads the runs themselves back, and they expand to the data. -/
theorem rleDecodeInvertsEncode : Obligations.RleDecodeInvertsEncode :=
  fun _ _ hu hreg => ⟨_, _, rleDecodeBody_rleEncodeBody hu hreg, expandRuns_rleRuns hu, rfl⟩
end

section
/-! ## The RLE commands

The four bodies end in one shape, the delivery of an output and the write of NRUNS; what a completion leaves is said
once for that shape (R41, R210 to R213). -/

namespace Sys2Proof.Machine

/-! ### The bodies -/

theorem bodyRleEncodeChunk_of_unitSize_zero {s : State} (hcap : s.srcLen.toNat ≤ s.params.srcCap)
    (hu : s.unitSize = 0) : bodyRleEncodeChunk s = .error .cfgUnitSize := by
  simp only [bodyRleEncodeChunk, State.srcInput_eq_input hcap, if_pos hu]

theorem bodyRleDecodeChunk_of_unitSize_zero {s : State} (hcap : s.srcLen.toNat ≤ s.params.srcCap)
    (hu : s.unitSize = 0) : bodyRleDecodeChunk s = .error .cfgUnitSize := by
  simp only [bodyRleDecodeChunk, State.srcInput_eq_input hcap, if_pos hu]

theorem bodyRleEncode_of_unitSize_zero {s : State} (hcap : s.srcLen.toNat ≤ s.params.srcCap)
    (hu : s.unitSize = 0) : bodyRleEncode s = .error .cfgUnitSize := by
  simp only [bodyRleEncode, State.srcInput_eq_input hcap, if_pos hu]

theorem bodyRleEncodeChunk_of_long {s : State} (hcap : s.srcLen.toNat ≤ s.params.srcCap) (hu : s.unitSize ≠ 0)
    (hlong : 1000 < s.srcLen.toNat) : bodyRleEncodeChunk s = .error .cfgChunkLen := by
  have hchunk : Config.chunk < s.input.length := by rwa [State.input_length]
  simp only [bodyRleEncodeChunk, State.srcInput_eq_input hcap, if_neg hu, if_pos hchunk]

/-- RLE_ENCODE_CHUNK of at most 1000 bytes (R210). -/
theorem bodyRleEncodeChunk_eq {s : State} (hcap : s.srcLen.toNat ≤ s.params.srcCap) (hu : s.unitSize ≠ 0)
    (hlen : s.srcLen.toNat ≤ 1000) :
    bodyRleEncodeChunk s = (s.emit (chunkBody (encodeChunk s.input s.unitSize.toNat))).map
      (·.setNruns (encodeChunk s.input s.unitSize.toNat).length) := by
  have hchunk : ¬Config.chunk < s.input.length := by rw [State.input_length]; exact Nat.not_lt.mpr hlen
  simp only [bodyRleEncodeChunk, State.srcInput_eq_input hcap, if_neg hu, if_neg hchunk]
  cases s.emit (chunkBody (encodeChunk s.input s.unitSize.toNat)) <;> rfl

/-- RLE_ENCODE under a unit size (R212). -/
theorem bodyRleEncode_eq {s : State} (hcap : s.srcLen.toNat ≤ s.params.srcCap) (hu : s.unitSize ≠ 0) :
    bodyRleEncode s = (s.emit (rleEncodeBody s.input s.unitSize.toNat)).map
      (·.setNruns (rleRuns s.input s.unitSize.toNat).length) := by
  simp only [bodyRleEncode, State.srcInput_eq_input hcap, if_neg hu]
  cases s.emit (rleEncodeBody s.input s.unitSize.toNat) <;> rfl

/-- RLE_DECODE_CHUNK under a unit size (R211). -/
theorem bodyRleDecodeChunk_eq {s : State} (hcap : s.srcLen.toNat ≤ s.params.srcCap) (hu : s.unitSize ≠ 0) :
    bodyRleDecodeChunk s = (chunkDecodeBody s.unitSize.toNat s.input).bind fun x =>
      (s.emit (expandRuns x.1)).map (·.setNruns x.2) := by
  simp only [bodyRleDecodeChunk, State.srcInput_eq_input hcap, if_neg hu, State.emitRuns_eq_emit]
  cases chunkDecodeBody s.unitSize.toNat s.input with
  | error c => rfl
  | ok x => cases hx : s.emit (expandRuns x.1) <;> simp [Except.bind, Except.map, hx]

/-- RLE_DECODE (R213). -/
theorem bodyRleDecode_eq {s : State} (hcap : s.srcLen.toNat ≤ s.params.srcCap) :
    bodyRleDecode s = (rleDecodeBody s.input).bind fun x => (s.emit (expandRuns x.1)).map (·.setNruns x.2) := by
  simp only [bodyRleDecode, State.srcInput_eq_input hcap, State.emitRuns_eq_emit]
  cases rleDecodeBody s.input with
  | error c => rfl
  | ok x => cases hx : s.emit (expandRuns x.1) <;> simp [Except.bind, Except.map, hx]

theorem bodyRleDecodeChunk_of_ok {s : State} {runs : List Run} {n : Nat} (hcap : s.srcLen.toNat ≤ s.params.srcCap)
    (hu : s.unitSize ≠ 0) (h : chunkDecodeBody s.unitSize.toNat s.input = .ok (runs, n)) :
    bodyRleDecodeChunk s = (s.emit (expandRuns runs)).map (·.setNruns n) := by
  rw [bodyRleDecodeChunk_eq hcap hu, h]
  rfl

theorem bodyRleDecode_of_ok {s : State} {runs : List Run} {n : Nat} (hcap : s.srcLen.toNat ≤ s.params.srcCap)
    (h : rleDecodeBody s.input = .ok (runs, n)) :
    bodyRleDecode s = (s.emit (expandRuns runs)).map (·.setNruns n) := by
  rw [bodyRleDecode_eq hcap, h]
  rfl

/-- RLE_DECODE_CHUNK of a body that does not decode raises the error of the failed check (R211). -/
theorem rleDecodeChunk_failsWith_of_error {m : BitVec 2} {s : State} {c : Cause}
    (hcap : s.srcLen.toNat ≤ s.params.srcCap) (hu : s.unitSize ≠ 0)
    (h : chunkDecodeBody s.unitSize.toNat s.input = .error c) : s.failsWith (.rleDecodeChunk m) c.word := by
  apply failsWith_of_error
  rw [bodyOf, bodyRleDecodeChunk_eq hcap hu, h]
  rfl

/-- RLE_DECODE of a body that does not decode raises the error of the failed check (R206, R213). -/
theorem rleDecode_failsWith_of_error {m : BitVec 2} {s : State} {c : Cause} (hcap : s.srcLen.toNat ≤ s.params.srcCap)
    (h : rleDecodeBody s.input = .error c) : s.failsWith (.rleDecode m) c.word := by
  apply failsWith_of_error
  rw [bodyOf, bodyRleDecode_eq hcap, h]
  rfl

/-! ### Completion -/

/-- `t` is `s` after an RLE command delivered `out` and counted `n` runs: nothing beside DST, DST_LEN, NRUNS and the
completion has changed (R41). -/
def State.RleDelivered (s : State) (out : Bytes) (n : Nat) (t : State) : Prop :=
  t = { s with
    dst := t.dst, dstLen := t.dstLen, nruns := t.nruns, errcode := 0, done := true, seq := .idle,
    draws := s.draws + 1 } ∧
  t.outputIs out ∧ t.nruns.toNat = n

/-- A body that delivers an output and counts its runs completes with them, where both fit. -/
theorem exec_rleDelivered {i : Instr} {s : State} {out : Bytes} {n : Nat}
    (hbody : bodyOf i s = (s.emit out).map (·.setNruns n)) (hlegal : s.params.legal = true)
    (hfit : out.length ≤ s.params.dstCap) (hn : n < 2 ^ 32) :
    ∃ t, exec i s = .next t ∧ s.RleDelivered out n t := by
  rw [State.emit_ok hfit] at hbody
  exact ⟨_, exec_of_ok hbody, rfl, State.deliver_outputIs hlegal hfit, Nat.mod_eq_of_lt hn⟩

/-- An output longer than DST_CAP is CAP_DST, whatever the count of its runs (R95). -/
theorem body_capDst {s : State} {out : Bytes} {n : Nat} {r : Except Cause State}
    (hbody : r = (s.emit out).map (·.setNruns n)) (hlong : s.params.dstCap < out.length) : r = .error .capDst := by
  rw [hbody, State.emit_capDst hlong]
  rfl

theorem failsWith_capDst {i : Instr} {s : State} {out : Bytes} {n : Nat}
    (hbody : bodyOf i s = (s.emit out).map (·.setNruns n)) (hlong : s.params.dstCap < out.length) :
    s.failsWith i 0x321 :=
  failsWith_of_error (body_capDst hbody hlong)

/-! ### The numbers of runs fit NRUNS -/

theorem dstCap_lt {s : State} (hlegal : s.params.legal = true) : s.params.dstCap < 2 ^ 32 := by
  obtain ⟨-, -, -, hdst, -⟩ := (Params.legal_iff _).mp hlegal
  omega

theorem length_runs_le_length_chunkBody (runs : List Run) : runs.length ≤ (chunkBody runs).length := by
  have hcounts := length_le_length_countsLine (runCounts runs)
  rw [runCounts_length] at hcounts
  simp only [chunkBody, List.length_append]
  omega

theorem length_runs_le_length_rleEncodeBody (data : Bytes) (u : Nat) :
    (rleRuns data u).length ≤ (rleEncodeBody data u).length := by
  refine (length_runs_le_length_chunkBody _).trans ?_
  rw [rleEncodeBody, List.length_append]
  exact Nat.le_add_left _ _

/-- The counts of a line that stands in the input fit NRUNS (R5). -/
theorem length_counts_lt {s : State} {line : Bytes} {counts : List Nat} (hlegal : s.params.legal = true)
    (hcap : s.srcLen.toNat ≤ s.params.srcCap) (hline : line.length ≤ s.input.length)
    (hcounts : parseCounts line = .ok counts) : counts.length < 2 ^ 32 := by
  obtain ⟨-, hsrc, -⟩ := (Params.legal_iff _).mp hlegal
  have hlen := length_of_parseCounts hcounts
  rw [State.input_length] at hline
  omega

/-! ### Chunk bodies that decode and that do not -/

theorem chunkDecodeBody_of_ok {u : Nat} {s line lits : Bytes} {counts : List Nat} {runs : List Run}
    (hline : split1 s = some (line, lits)) (hcounts : parseCounts line = .ok counts)
    (hruns : replay u counts 1000 lits = .ok runs) : chunkDecodeBody u s = .ok (runs, counts.length) := by
  simp only [chunkDecodeBody_of_line hline, hcounts, Except.bind, Config.chunk, hruns, Except.map]

/-- A bad count is FMT_NUMBER (R107, R211). -/
theorem chunkDecodeBody_of_bad_count {u : Nat} {s line lits : Bytes} (hline : split1 s = some (line, lits))
    (hne : line ≠ []) (hbad : ∃ f ∈ splitCommas line, badNumber f 1 999999999) :
    chunkDecodeBody u s = .error .fmtNumber := by
  rw [chunkDecodeBody_of_line hline, parseCounts_of_bad hne hbad]
  rfl

/-- Literals left over are FMT_RLE_LITERALS (R205, R211). -/
theorem chunkDecodeBody_of_replay_error {u : Nat} {s line lits : Bytes} {counts : List Nat} {c : Cause}
    (hline : split1 s = some (line, lits)) (hcounts : parseCounts line = .ok counts)
    (hreplay : replay u counts 1000 lits = .error c) : chunkDecodeBody u s = .error .fmtRleLiterals := by
  obtain rfl := replay_error hreplay
  simp only [chunkDecodeBody_of_line hline, hcounts, Except.bind, Config.chunk, hreplay, Except.map]

/-- A body whose unit size reads is the chunk body below its first line (R206, R211). -/
theorem rleDecodeBody_of_unitSize {s unitLine rest countLine lits : Bytes} {u : Nat}
    (h : split1 s = some (unitLine, rest)) (hrest : split1 rest = some (countLine, lits))
    (hu : num unitLine 1 (2 ^ 32 - 1) = .ok u) : rleDecodeBody s = chunkDecodeBody u rest := by
  rw [rleDecodeBody_of_lines h hrest, hu]
  rfl

theorem rleDecodeBody_of_bad_unitSize {s unitLine rest countLine lits : Bytes}
    (h : split1 s = some (unitLine, rest)) (hrest : split1 rest = some (countLine, lits))
    (hbad : badNumber unitLine 1 (2 ^ 32 - 1)) : rleDecodeBody s = .error .fmtNumber := by
  rw [rleDecodeBody_of_lines h hrest, num_of_bad hbad]
  rfl

end Sys2Proof.Machine
end

section
open Sys2Proof Sys2Proof.Machine

/-- Settles O26: the command delivers the chunk body, whose counts line has a byte or more for each run. -/
theorem rleEncodeChunkWritesChunkBody : Obligations.RleEncodeChunkWritesChunkBody := by
  rintro m s runs hlegal hcap hu hlen rfl hfit
  have hruns := length_runs_le_length_chunkBody (encodeChunk s.input s.unitSize.toNat)
  exact exec_rleDelivered (i := .rleEncodeChunk m) (bodyRleEncodeChunk_eq hcap hu hlen) hlegal hfit
    ((hruns.trans hfit).trans_lt (dstCap_lt hlegal))

/-- Settles O27: the body decodes to the runs, and the input has a byte or more for each count but one. -/
theorem rleDecodeChunkWritesExpansion : Obligations.RleDecodeChunkWritesExpansion := by
  intro m s line lits counts runs hlegal hcap hu hline hcounts hruns hfit
  have hshort := length_of_split1 hline
  exact exec_rleDelivered (i := .rleDecodeChunk m)
    (bodyRleDecodeChunk_of_ok hcap hu (chunkDecodeBody_of_ok hline hcounts hruns)) hlegal hfit
    (length_counts_lt hlegal hcap (by omega) hcounts)

/-- Settles O28: the command delivers the body, whose counts line has a byte or more for each run. -/
theorem rleEncodeWritesBody : Obligations.RleEncodeWritesBody := by
  rintro m s runs out hlegal hcap hu rfl hout hfit
  have hbody : out = rleEncodeBody s.input s.unitSize.toNat := by
    rw [hout, rleEncodeBody, chunkBody]
    simp only [List.append_assoc]
    rfl
  subst hbody
  have hruns := length_runs_le_length_rleEncodeBody s.input s.unitSize.toNat
  exact exec_rleDelivered (i := .rleEncode m) (bodyRleEncode_eq hcap hu) hlegal hfit
    ((hruns.trans hfit).trans_lt (dstCap_lt hlegal))

/-- Settles O29: below its unit size line the body decodes as a chunk body does. -/
theorem rleDecodeWritesExpansion : Obligations.RleDecodeWritesExpansion := by
  intro m s unitLine countLine rest lits u counts runs hlegal hcap hunit hcount hnum hcounts hruns hfit
  have hdec : rleDecodeBody s.input = .ok (runs, counts.length) :=
    (rleDecodeBody_of_unitSize hunit hcount hnum).trans (chunkDecodeBody_of_ok hcount hcounts hruns)
  have hshort := length_of_split1 hunit
  have hshorter := length_of_split1 hcount
  exact exec_rleDelivered (i := .rleDecode m) (bodyRleDecode_of_ok hcap hdec) hlegal hfit
    (length_counts_lt hlegal hcap (by omega) hcounts)

/-- Settles O30: the body raises in each case, and a body that raises fails the command with exactly its column. -/
theorem rleCommandErrors : Obligations.RleCommandErrors := by
  refine fun m s hcap => ⟨fun i hu hi => ?_, fun hu => ⟨fun hlong => ?_, fun hlen hlong => ?_, fun hlong => ?_,
    fun hnone => ?_, fun countLine lits hline => ⟨fun hne hbad => ?_, fun counts hcounts => ⟨fun c hreplay => ?_,
    fun runs hruns hlong => ?_⟩⟩⟩, fun hnone => ?_, fun unitLine rest countLine lits hunit hcount =>
    ⟨fun hbad => ?_, fun u hnum => ⟨fun hne hbad => ?_, fun counts c hcounts hreplay => ?_⟩⟩,
    fun runs n hdec hlong => ?_⟩
  · obtain rfl | rfl | rfl := hi
    · exact exec_of_error (i := .rleEncodeChunk m) (bodyRleEncodeChunk_of_unitSize_zero hcap hu)
    · exact exec_of_error (i := .rleDecodeChunk m) (bodyRleDecodeChunk_of_unitSize_zero hcap hu)
    · exact exec_of_error (i := .rleEncode m) (bodyRleEncode_of_unitSize_zero hcap hu)
  · exact exec_of_error (i := .rleEncodeChunk m) (bodyRleEncodeChunk_of_long hcap hu hlong)
  · exact failsWith_capDst (i := .rleEncodeChunk m) (bodyRleEncodeChunk_eq hcap hu hlen) hlong
  · exact failsWith_capDst (i := .rleEncode m) (bodyRleEncode_eq hcap hu) hlong
  · exact rleDecodeChunk_failsWith_of_error hcap hu (chunkDecodeBody_of_no_crlf hnone)
  · exact rleDecodeChunk_failsWith_of_error hcap hu (chunkDecodeBody_of_bad_count hline hne hbad)
  · exact rleDecodeChunk_failsWith_of_error hcap hu (chunkDecodeBody_of_replay_error hline hcounts hreplay)
  · exact failsWith_capDst (i := .rleDecodeChunk m)
      (bodyRleDecodeChunk_of_ok hcap hu (chunkDecodeBody_of_ok hline hcounts hruns)) hlong
  · exact rleDecode_failsWith_of_error hcap (rleDecodeBody_of_no_crlf hnone)
  · exact rleDecode_failsWith_of_error hcap (rleDecodeBody_of_bad_unitSize hunit hcount hbad)
  · exact rleDecode_failsWith_of_error hcap
      ((rleDecodeBody_of_unitSize hunit hcount hnum).trans (chunkDecodeBody_of_bad_count hcount hne hbad))
  · exact rleDecode_failsWith_of_error hcap
      ((rleDecodeBody_of_unitSize hunit hcount hnum).trans (chunkDecodeBody_of_replay_error hcount hcounts hreplay))
  · exact exec_of_error (i := .rleDecode m) (body_capDst (bodyRleDecode_of_ok hcap hdec) hlong)
end

section
/-! ## The engine

COMPRESS ends in one shape under both methods: the checks of the extension, the delivery of the artifact, the writes of
the method and EFFICIENCY. EXTRACT splits line 1 off the artifact and runs the decoder of the tag (R230 to R235). -/

namespace Sys2Proof.Machine

/-! ### An illegal OPCODE -/

/-- The turn of a BUSY block whose CMD has an OPCODE outside the map (R235). -/
theorem blockTurn_illegal {s : State} (hbusy : s.seq = .busy) (h : legalOpcode (opcodeField s.cmd) = false) :
    blockTurn s = .next (s.noOutput.raise .cmdIllegal) := by
  simp only [blockTurn, hbusy, decode_of_illegalOpcode h]
  rfl

/-! ### The checks of COMPRESS -/

/-- EXT holds an extension that may stand in line 1: within EXT_CAP, and without CR and LF (R104, R233). -/
def State.ExtAllowed (s : State) : Prop :=
  s.extLen.toNat ≤ s.params.extCap ∧ ∀ b ∈ s.extInput, b ≠ 0x0D#8 ∧ b ≠ 0x0A#8

@[simp] theorem State.extInput_length (s : State) : s.extInput.length = s.extLen.toNat := s.bufBytes_length .ext 0 _

theorem State.extInput_getElem? {s : State} {i : Nat} (hi : i < s.extLen.toNat) :
    s.extInput[i]? = some (s.bufByte .ext i) := by
  rw [← s.extInput_length] at hi
  rw [List.getElem?_eq_getElem hi]
  simp [State.extInput]

theorem State.compressExt_of_not_extAllowed {s : State} (h : ¬s.ExtAllowed) : s.compressExt = .error .cfgExt := by
  unfold State.compressExt
  split
  · rfl
  · rename_i hlen
    apply if_neg
    intro hall
    simp only [extAllowed, List.all_eq_true, Bool.and_eq_true, bne_iff_ne] at hall
    exact h ⟨Nat.le_of_not_lt hlen, hall⟩

/-- An extension that is too long or holds a CR or LF is not allowed (R233). -/
theorem State.not_extAllowed {s : State}
    (h : s.params.extCap < s.extLen.toNat ∨ 0x0D#8 ∈ s.extInput ∨ 0x0A#8 ∈ s.extInput) : ¬s.ExtAllowed := by
  rintro ⟨hlen, hbytes⟩
  obtain hlong | hcr | hlf := h
  · omega
  · exact (hbytes _ hcr).1 rfl
  · exact (hbytes _ hlf).2 rfl

/-! ### The body of COMPRESS -/

/-- What COMPRESS does once METHOD and UNIT_SIZE have passed: `artifact` of the extension is delivered, then come the
writes of the method and EFFICIENCY (R233). -/
def State.deliverArtifact (s : State) (artifact : Bytes → Bytes) (writes : State → State) : Except Cause State :=
  s.compressExt.bind fun ext =>
    (s.emit (artifact ext)).map fun t => (writes t).setEfficiency s.srcLen.toNat (artifact ext).length

theorem State.deliverArtifact_cfgExt {s : State} (artifact : Bytes → Bytes) (writes : State → State)
    (h : ¬s.ExtAllowed) : s.deliverArtifact artifact writes = .error .cfgExt := by
  rw [State.deliverArtifact, State.compressExt_of_not_extAllowed h]
  rfl

theorem State.deliverArtifact_capDst {s : State} {artifact : Bytes → Bytes} (writes : State → State)
    (h : s.ExtAllowed) (hlong : s.params.dstCap < (artifact s.extInput).length) :
    s.deliverArtifact artifact writes = .error .capDst := by
  obtain ⟨hlen, hbytes⟩ := h
  simp only [State.deliverArtifact, State.compressExt_ok hlen hbytes, Except.bind, State.emit_capDst hlong]
  rfl

theorem State.deliverArtifact_ok {s : State} {artifact : Bytes → Bytes} (writes : State → State)
    (h : s.ExtAllowed) (hfit : (artifact s.extInput).length ≤ s.params.dstCap) :
    s.deliverArtifact artifact writes =
      .ok ((writes (s.deliver (artifact s.extInput))).setEfficiency s.srcLen.toNat (artifact s.extInput).length) := by
  obtain ⟨hlen, hbytes⟩ := h
  simp only [State.deliverArtifact, State.compressExt_ok hlen hbytes, Except.bind, State.emit_ok hfit]
  rfl

/-- An artifact is delivered only where the extension is allowed and the artifact fits DST. -/
theorem State.deliverArtifact_eq_ok {s v : State} {artifact : Bytes → Bytes} {writes : State → State}
    (h : s.deliverArtifact artifact writes = .ok v) :
    s.ExtAllowed ∧ (artifact s.extInput).length ≤ s.params.dstCap := by
  by_cases hext : s.ExtAllowed
  · refine ⟨hext, Nat.le_of_not_lt fun hlong => ?_⟩
    rw [State.deliverArtifact_capDst writes hext hlong] at h
    cases h
  · rw [State.deliverArtifact_cfgExt artifact writes hext] at h
    cases h

/-- COMPRESS with METHOD = 0 under a unit size (R233). -/
theorem bodyCompress_rle_eq {s : State} (hcap : s.srcLen.toNat ≤ s.params.srcCap) (hu : s.unitSize ≠ 0) :
    bodyCompress 0#2 s = s.deliverArtifact (compressRle s.input s.unitSize.toNat)
      (·.setNruns (rleRuns s.input s.unitSize.toNat).length) := by
  simp only [bodyCompress, State.srcInput_eq_input hcap, if_true, bodyCompressRle, if_neg hu, State.input_length]
  unfold State.deliverArtifact
  cases s.compressExt with
  | error c => rfl
  | ok ext => cases he : s.emit (compressRle s.input s.unitSize.toNat ext) <;> simp [Except.bind, Except.map, he]

/-- COMPRESS with METHOD = 1 (R233). -/
theorem bodyCompress_huf_eq {s : State} (hcap : s.srcLen.toNat ≤ s.params.srcCap) :
    bodyCompress 1#2 s = s.deliverArtifact (compressHuf s.input)
      (·.hufEncodeWrites s.input (hufEncodeBody s.input).2) := by
  simp only [bodyCompress, State.srcInput_eq_input hcap, if_neg (by decide : ¬(1#2 = 0#2)), if_true, bodyCompressHuf,
    State.input_length]
  unfold State.deliverArtifact
  cases s.compressExt with
  | error c => rfl
  | ok ext => cases he : s.emit (compressHuf s.input ext) <;> simp [Except.bind, Except.map, he]

theorem bodyCompress_of_unitSize_zero {s : State} (hcap : s.srcLen.toNat ≤ s.params.srcCap) (hu : s.unitSize = 0) :
    bodyCompress 0#2 s = .error .cfgUnitSize := by
  simp only [bodyCompress, State.srcInput_eq_input hcap, if_true, bodyCompressRle, if_pos hu]

theorem bodyCompress_of_bad_method {m : BitVec 2} {s : State} (hcap : s.srcLen.toNat ≤ s.params.srcCap)
    (hrle : m ≠ 0#2) (hhuf : m ≠ 1#2) : bodyCompress m s = .error .cfgMethod := by
  simp only [bodyCompress, State.srcInput_eq_input hcap, if_neg hrle, if_neg hhuf]

/-! ### COMPRESS completed -/

/-- A command that delivers an output has it in DST, whatever else it writes (R28, R95). -/
theorem State.outputIs_of_dst {s t : State} {out : Bytes} (hlegal : s.params.legal = true)
    (hfit : out.length ≤ s.params.dstCap) (hdst : t.dst = Memory.ofBytesAt 0 out)
    (hlen : t.dstLen = BitVec.ofNat 32 out.length) : t.outputIs out :=
  ⟨(congrArg BitVec.toNat hlen).trans (State.deliver_dstLen_toNat hlegal hfit),
    fun i _ => hdst ▸ Memory.byte?_ofBytes out i⟩

/-- A tree is built exactly from data that is not empty (R150). -/
theorem isSome_buildTree (data : Bytes) : (buildTree data).isSome = !data.isEmpty := by
  rw [Bool.eq_iff_iff, Option.isSome_iff_ne_none]
  simp [buildTree_eq_none_iff]

/-- COMPRESS of an input whose RLE artifact fits DST (R233). -/
theorem exec_compressRle_ok {s : State} (hcap : s.srcLen.toNat ≤ s.params.srcCap) (hu : s.unitSize ≠ 0)
    (hext : s.ExtAllowed) (hfit : (compressRle s.input s.unitSize.toNat s.extInput).length ≤ s.params.dstCap) :
    exec (.compress 0#2) s = .next
      (((s.deliver (compressRle s.input s.unitSize.toNat s.extInput)).setNruns
        (rleRuns s.input s.unitSize.toNat).length).setEfficiency s.srcLen.toNat
          (compressRle s.input s.unitSize.toNat s.extInput).length).succeed :=
  exec_of_ok ((bodyCompress_rle_eq hcap hu).trans (State.deliverArtifact_ok _ hext hfit))

/-- COMPRESS of an input whose Huffman artifact fits DST (R233). -/
theorem exec_compressHuf_ok {s : State} (hcap : s.srcLen.toNat ≤ s.params.srcCap) (hext : s.ExtAllowed)
    (hfit : (compressHuf s.input s.extInput).length ≤ s.params.dstCap) :
    exec (.compress 1#2) s = .next
      (((s.deliver (compressHuf s.input s.extInput)).hufEncodeWrites s.input
        (hufEncodeBody s.input).2).setEfficiency s.srcLen.toNat (compressHuf s.input s.extInput).length).succeed :=
  exec_of_ok ((bodyCompress_huf_eq hcap).trans (State.deliverArtifact_ok _ hext hfit))

/-- COMPRESS with METHOD = 0 writes DST, DST_LEN, NRUNS and EFFICIENCY alone (R41). -/
theorem State.compressRle_frame {s t : State} {out : Bytes} {n nIn nOut : Nat}
    (h : t = (((s.deliver out).setNruns n).setEfficiency nIn nOut).succeed) :
    t = { s with
      dst := t.dst, dstLen := t.dstLen, nruns := t.nruns, efficiency := t.efficiency, errcode := 0, done := true,
      seq := .idle, draws := s.draws + 1 } := by
  subst h
  apply State.eq_of_fields <;> simp [State.deliver]

/-- COMPRESS with METHOD = 1 writes DST, DST_LEN, PAD, EFFICIENCY and the tables alone (R41). -/
theorem State.compressHuf_frame {s t : State} {out data : Bytes} {n nIn nOut : Nat}
    (h : t = (((s.deliver out).hufEncodeWrites data n).setEfficiency nIn nOut).succeed) :
    t = { s with
      dst := t.dst, dstLen := t.dstLen, pad := t.pad, freq := t.freq, freqValid := true, tree := buildTree data,
      nleaf := t.nleaf, codeLen := t.codeLen, codeBits := t.codeBits, codesValid := !data.isEmpty,
      efficiency := t.efficiency, errcode := 0, done := true, seq := .idle, draws := s.draws + 1 } := by
  rw [State.hufEncodeWrites_eq, isSome_buildTree] at h
  subst h
  apply State.eq_of_fields <;> simp [State.deliver]

/-- EFFICIENCY holds the difference of every two lengths that legal capacities allow (R5, R232). -/
theorem efficiencyWord_toInt {nIn nOut : Nat} (hIn : nIn ≤ 2 ^ 24) (hOut : nOut ≤ 2 ^ 24) :
    (efficiencyWord nIn nOut).toInt = (nIn : Int) - (nOut : Int) := by
  rw [efficiencyWord, BitVec.toInt_ofInt]
  apply Int.bmod_eq_of_le <;> omega

theorem State.efficiency_toInt {s : State} {nOut : Nat} (hlegal : s.params.legal = true)
    (hcap : s.srcLen.toNat ≤ s.params.srcCap) (hfit : nOut ≤ s.params.dstCap) :
    (efficiencyWord s.srcLen.toNat nOut).toInt = (s.srcLen.toNat : Int) - (nOut : Int) := by
  obtain ⟨-, hsrc, -, hdst, -⟩ := (Params.legal_iff _).mp hlegal
  exact efficiencyWord_toInt (hcap.trans hsrc) (hfit.trans hdst)

/-- The runs of an RLE artifact are no more than its bytes. -/
theorem length_runs_le_length_compressRle (data : Bytes) (u : Nat) (ext : Bytes) :
    (rleRuns data u).length ≤ (compressRle data u ext).length := by
  refine (length_runs_le_length_rleEncodeBody data u).trans ?_
  rw [compressRle, List.length_append]
  exact Nat.le_add_left _ _

/-! ### Line 1 of an artifact -/

/-- The two tags of an artifact (R104). -/
def IsTag (tag : Bytes) : Prop := tag = tagRle ∨ tag = tagHuf

theorem split1_eq_none_of_not_mem_cr {s : Bytes} (hs : asciiCr ∉ s) : split1 s = none := by
  have h := split1_append_of_not_mem_cr [] hs
  rwa [List.append_nil] at h

/-- A sequence without a CRLF ends where the CRLF after it begins, also where its last byte is a CR (R108). -/
theorem split1_append_crlf {s : Bytes} (rest : Bytes) (h : split1 s = none) :
    split1 (s ++ crlf ++ rest) = some (s, rest) := by
  induction s with
  | nil => rfl
  | cons b s ih =>
    rw [split1] at h
    split at h
    · cases h
    · rename_i hcrlf
      rw [List.cons_append, List.cons_append, split1, if_neg, ih (Option.map_eq_none_iff.mp h)]
      · rfl
      · rintro ⟨hcr, hlf⟩
        cases s with
        | nil => exact absurd hlf (by simp [crlf, asciiCr, asciiLf])
        | cons c s => exact hcrlf ⟨hcr, hlf⟩

theorem IsTag.not_mem_cr {tag : Bytes} (h : IsTag tag) : asciiCr ∉ tag ++ [asciiComma] := by
  obtain rfl | rfl := h <;> decide

theorem IsTag.length {tag : Bytes} (h : IsTag tag) : tag.length = 3 := by
  obtain rfl | rfl := h <;> rfl

/-- Line 1 of an artifact is what stands before its CRLF (R104, R108). -/
theorem split1_artifactLine {tag ext : Bytes} (body : Bytes) (htag : IsTag tag) (hext : split1 ext = none) :
    split1 (artifactLine tag ext ++ body) = some (tag ++ [asciiComma] ++ ext, body) := by
  have hsplit : artifactLine tag ext ++ body = (tag ++ [asciiComma]) ++ (ext ++ crlf ++ body) := by
    simp only [artifactLine, List.append_assoc]
  rw [hsplit, split1_append_of_not_mem_cr _ htag.not_mem_cr, split1_append_crlf body hext]
  rfl

theorem artifactLine_rle (ext : Bytes) :
    artifactLine tagRle ext = [0x52#8, 0x4C#8, 0x45#8, 0x2C#8] ++ ext ++ [0x0D#8, 0x0A#8] := rfl

theorem artifactLine_huf (ext : Bytes) :
    artifactLine tagHuf ext = [0x48#8, 0x55#8, 0x46#8, 0x2C#8] ++ ext ++ [0x0D#8, 0x0A#8] := rfl

/-! ### What an artifact holds -/

theorem IsTag.known {tag : Bytes} (h : IsTag tag) : ¬(tag ≠ tagRle ∧ tag ≠ tagHuf) :=
  not_and_or.mpr (h.imp not_not_intro not_not_intro)

theorem extractOne_of_unknown_tag {a : Bytes} (h : ¬IsTag (a.take 3)) : extractOne a = .error .fmtTag :=
  if_pos (not_or.mp h)

theorem extractOne_of_no_crlf {a : Bytes} (htag : IsTag (a.take 3)) (h : split1 a = none) :
    extractOne a = .error .fmtHeaderLines := by
  rw [extractOne, if_neg htag.known, h]

theorem extractOne_of_no_comma {a line1 body : Bytes} (htag : IsTag (a.take 3)) (h : split1 a = some (line1, body))
    (hcomma : line1[3]? ≠ some asciiComma) : extractOne a = .error .fmtTag := by
  simp only [extractOne, if_neg htag.known, h, if_pos hcomma]

/-- Behind a line 1 with a tag and a comma: the decoder of the tag, and the rest of line 1 as the extension (R231). -/
theorem extractOne_of_line {a line1 body : Bytes} (htag : IsTag (a.take 3)) (h : split1 a = some (line1, body))
    (hcomma : line1[3]? = some asciiComma) :
    extractOne a = (extractBody (a.take 3) body).map fun x => (x, line1.drop 4) := by
  simp only [extractOne, if_neg htag.known, h,
    if_neg (not_not_intro hcomma)]
  cases extractBody (a.take 3) body <;> rfl

/-- An artifact holds what its body decodes to, and its extension (R231). -/
theorem extractOne_artifact {tag ext body : Bytes} {x : Extracted} (htag : IsTag tag) (hext : split1 ext = none)
    (hx : extractBody tag body = .ok x) : extractOne (artifactLine tag ext ++ body) = .ok (x, ext) := by
  have htake : (artifactLine tag ext ++ body).take 3 = tag := by
    simp [artifactLine, htag.length]
  have hcomma : (tag ++ [asciiComma] ++ ext)[3]? = some asciiComma := by
    simp [htag.length]
  have hdrop : (tag ++ [asciiComma] ++ ext).drop 4 = ext := List.drop_left' (by simp [htag.length])
  rw [extractOne_of_line (htake.symm ▸ htag) (split1_artifactLine body htag hext) hcomma, htake, hx, hdrop]
  rfl

theorem extractBody_rle {body : Bytes} {runs : List Run} {n : Nat} (h : rleDecodeBody body = .ok (runs, n)) :
    extractBody tagRle body = .ok (.rle runs n) := by
  simp only [extractBody, if_true, h]

theorem extractBody_huf {body out : Bytes} {tree : Option CodeTree} {pad : Nat}
    (h : hufDecodeBody body = .ok (out, tree, pad)) : extractBody tagHuf body = .ok (.huf out tree pad) := by
  simp only [extractBody, if_neg (by decide : ¬(tagHuf = tagRle)), h]

/-- The decoder counts no more runs than a body has bytes, but for one (R206). -/
theorem count_le_of_rleDecodeBody {s : Bytes} {runs : List Run} {n : Nat} (h : rleDecodeBody s = .ok (runs, n)) :
    n ≤ s.length + 1 := by
  unfold rleDecodeBody at h
  split at h
  · cases h
  · rename_i hline2
    split at h
    · cases h
    · rename_i hline3
      split at h
      · cases h
      · split at h
        · cases h
        · rename_i hcounts
          split at h
          · cases h
          · cases h
            have h2 := length_of_split1 hline2
            have h3 := length_of_split1 hline3
            have hle := length_of_parseCounts hcounts
            omega

/-! ### EXTRACT completed -/

/-- `s` after an EXTRACT that delivered what an artifact holds and its extension (R234). -/
def State.afterExtract (s : State) (x : Extracted) (ext : Bytes) : State :=
  (((s.deliver (extractedBytes x)).extractWrites x).setExt ext).succeed

/-- EXTRACT of an artifact whose data fits DST and whose extension fits EXT (R234). -/
theorem exec_extract_ok {m : BitVec 2} {s : State} {x : Extracted} {ext : Bytes}
    (hcap : s.srcLen.toNat ≤ s.params.srcCap) (h : extractOne s.input = .ok (x, ext))
    (hext : ext.length ≤ s.params.extCap) (hfit : (extractedBytes x).length ≤ s.params.dstCap) :
    exec (.extract m) s = .next (s.afterExtract x ext) := by
  apply exec_of_ok
  simp only [bodyOf, bodyExtract, State.srcInput_eq_input hcap, h, if_neg (Nat.not_lt.mpr hext),
    State.emitExtracted_eq_emit, State.emit_ok hfit]
  rfl

/-- EXTRACT of an RLE artifact writes DST, DST_LEN, NRUNS, EXT and EXT_LEN alone (R41). -/
theorem State.afterExtract_rle_frame {s t : State} {runs : List Run} {n : Nat} {ext : Bytes}
    (h : t = s.afterExtract (.rle runs n) ext) :
    t = { s with
      dst := t.dst, dstLen := t.dstLen, nruns := t.nruns, ext := t.ext, extLen := t.extLen, errcode := 0,
      done := true, seq := .idle, draws := s.draws + 1 } := by
  subst h
  apply State.eq_of_fields <;> simp [State.afterExtract, State.extractWrites, State.deliver]

/-- EXTRACT of a Huffman artifact writes DST, DST_LEN, PAD, TREE, NLEAF, CODE, EXT and EXT_LEN alone (R41). -/
theorem State.afterExtract_huf_frame {s t : State} {out ext : Bytes} {tree : Option CodeTree} {pad : Nat}
    (h : t = s.afterExtract (.huf out tree pad) ext) :
    t = { s with
      dst := t.dst, dstLen := t.dstLen, pad := t.pad, tree := tree, nleaf := t.nleaf, codeLen := t.codeLen,
      codeBits := t.codeBits, codesValid := false, ext := t.ext, extLen := t.extLen, errcode := 0, done := true,
      seq := .idle, draws := s.draws + 1 } := by
  subst h
  apply State.eq_of_fields <;> simp [State.afterExtract, State.extractWrites, State.hufDecodeWrites, State.deliver]

theorem State.afterExtract_outputIs {s : State} {x : Extracted} {ext : Bytes} (hlegal : s.params.legal = true)
    (hfit : (extractedBytes x).length ≤ s.params.dstCap) : (s.afterExtract x ext).outputIs (extractedBytes x) := by
  cases x <;> exact State.outputIs_of_dst hlegal hfit rfl rfl

/-- EXT_LEN holds the length of every extension that fits EXT (R5). -/
theorem State.afterExtract_extLen_toNat {s : State} {ext : Bytes} (x : Extracted) (hlegal : s.params.legal = true)
    (hext : ext.length ≤ s.params.extCap) : (s.afterExtract x ext).extLen.toNat = ext.length := by
  obtain ⟨-, -, -, -, hextCap⟩ := (Params.legal_iff _).mp hlegal
  exact Nat.mod_eq_of_lt (by omega)

/-- EXT holds the extension, and beyond it what it held (R234). -/
theorem State.afterExtract_ext_byte? (s : State) (x : Extracted) (ext : Bytes) (i : Nat) :
    (s.afterExtract x ext).ext.byte? i = if i < ext.length then ext[i]? else s.ext.byte? i := by
  have hwrite : (s.afterExtract x ext).ext = s.ext.write 0 ext := by cases x <;> rfl
  simp [hwrite, Memory.byte?_write]

/-! ### EXTRACT that fails -/

theorem bodyExtract_of_error {s : State} {c : Cause} (hcap : s.srcLen.toNat ≤ s.params.srcCap)
    (h : extractOne s.input = .error c) : bodyExtract s = .error c := by
  simp only [bodyExtract, State.srcInput_eq_input hcap, h]

/-- An extension longer than EXT_CAP is CAP_EXT, whatever the data is (R95, R234). -/
theorem bodyExtract_capExt {s : State} {x : Extracted} {ext : Bytes} (hcap : s.srcLen.toNat ≤ s.params.srcCap)
    (h : extractOne s.input = .ok (x, ext)) (hlong : s.params.extCap < ext.length) :
    bodyExtract s = .error .capExt := by
  simp only [bodyExtract, State.srcInput_eq_input hcap, h, if_pos hlong]

theorem bodyExtract_capDst {s : State} {x : Extracted} {ext : Bytes} (hcap : s.srcLen.toNat ≤ s.params.srcCap)
    (h : extractOne s.input = .ok (x, ext)) (hext : ext.length ≤ s.params.extCap)
    (hlong : s.params.dstCap < (extractedBytes x).length) : bodyExtract s = .error .capDst := by
  simp only [bodyExtract, State.srcInput_eq_input hcap, h, if_neg (Nat.not_lt.mpr hext),
    State.emitExtracted_eq_emit, State.emit_capDst hlong]

/-- The failure column of EXTRACT goes by the tag the input starts with (R41). -/
theorem State.failureColumn_extract {m : BitVec 2} {s : State} {col : FailureColumn}
    (hcap : s.srcLen.toNat ≤ s.params.srcCap)
    (h : s.input.take 3 = tagRle ∧ col = rleColumn ∨ s.input.take 3 = tagHuf ∧ col = hufDecodeColumn) :
    s.failureColumn (.extract m) = col := by
  obtain ⟨htag, rfl⟩ | ⟨htag, rfl⟩ := h
  · exact if_pos (State.srcTag_eq_of_input hcap htag rfl)
  · have hsrc := State.srcTag_eq_of_input hcap htag rfl
    exact (if_neg (hsrc ▸ by decide)).trans (if_pos hsrc)

/-- An EXTRACT whose body raises ends in that error with the failure column of its tag (R41, R254). -/
theorem extract_failedWith_of_error {m : BitVec 2} {s : State} {col : FailureColumn} {c : Cause}
    (hcap : s.srcLen.toNat ≤ s.params.srcCap)
    (hcol : s.input.take 3 = tagRle ∧ col = rleColumn ∨ s.input.take 3 = tagHuf ∧ col = hufDecodeColumn)
    (h : bodyExtract s = .error c) : ∃ t, exec (.extract m) s = .next t ∧ s.failedWith col c.word t :=
  State.failureColumn_extract (m := m) hcap hcol ▸ failsWith_of_error (i := .extract m) h

/-- Without a tag of R104 at the head of the input the failure column reads none (R41). -/
theorem State.not_isTag_srcTag {s : State} (hcap : s.srcLen.toNat ≤ s.params.srcCap)
    (h : ¬IsTag (s.input.take 3)) : ¬IsTag s.srcTag := by
  by_cases hlen : 3 ≤ s.srcLen.toNat
  · rwa [State.srcTag_eq_take hcap hlen]
  · rw [State.srcTag, if_neg hlen]
    exact fun htag => absurd htag.length (by decide)

theorem State.failExtract_of_not_isTag {s : State} (h : ¬IsTag s.srcTag) : s.failExtract = s.spoilDst := by
  obtain ⟨hrle, hhuf⟩ := not_or.mp h
  rw [State.failExtract, if_neg hrle, if_neg hhuf]

/-! ### EXTRACT after COMPRESS -/

theorem State.outputIs_unique {s : State} {out out' : Bytes} (h : s.outputIs out) (h' : s.outputIs out') :
    out = out' := by
  obtain ⟨hlen, hbytes⟩ := h
  obtain ⟨hlen', hbytes'⟩ := h'
  refine List.ext_getElem (hlen.symm.trans hlen') fun i hi hi' => Option.some.inj ?_
  rw [← List.getElem?_eq_getElem hi, ← List.getElem?_eq_getElem hi', ← hbytes i hi, ← hbytes' i hi']

/-- ERRCODE 0 is the end of a body that raised nothing (R255). -/
theorem bodyOf_ok_of_errcode_zero {i : Instr} {s t : State} (h : exec i s = .next t) (hcode : t.errcode = 0) :
    ∃ v, bodyOf i s = .ok v := by
  rw [exec_eq_complete] at h
  obtain ⟨v, hv, -⟩ | ⟨c, -, rfl⟩ := complete_eq_next h
  · exact ⟨v, hv⟩
  · exact absurd hcode c.word_range.2

/-- The artifact `a` holds the input of `s` and the extension in its EXT (R230, R231). -/
def State.ArtifactOf (s : State) (a : Bytes) : Prop :=
  ∃ x, extractOne a = .ok (x, s.extInput) ∧ extractedBytes x = s.input

theorem State.ExtAllowed.split1_eq_none {s : State} (h : s.ExtAllowed) : split1 s.extInput = none := by
  obtain ⟨-, hbytes⟩ := h
  exact split1_eq_none_of_not_mem_cr fun hcr => (hbytes _ hcr).1 rfl

theorem State.artifactOf_compressRle {s : State} (hext : s.ExtAllowed) (hu : s.unitSize ≠ 0) :
    s.ArtifactOf (compressRle s.input s.unitSize.toNat s.extInput) := by
  have hpos : 1 ≤ s.unitSize.toNat := Nat.pos_of_ne_zero fun h => hu (BitVec.eq_of_toNat_eq h)
  exact ⟨_, extractOne_artifact (.inl rfl) hext.split1_eq_none
    (extractBody_rle (rleDecodeBody_rleEncodeBody hpos s.unitSize.isLt)), expandRuns_rleRuns hpos⟩

theorem State.artifactOf_compressHuf {s : State} (hext : s.ExtAllowed) :
    s.ArtifactOf (compressHuf s.input s.extInput) :=
  ⟨_, extractOne_artifact (.inr rfl) hext.split1_eq_none
    (extractBody_huf (hufDecodeBody_hufEncodeBody s.input)), rfl⟩

/-- A COMPRESS that ends without an error has delivered an artifact of its input and extension (R230, R233). -/
theorem compress_delivers_artifact {m : BitVec 2} {s t : State} (hlegal : s.params.legal = true)
    (hm : m = 0 ∨ m = 1) (h : exec (.compress m) s = .next t) (hcode : t.errcode = 0) :
    ∃ a, t.outputIs a ∧ s.ArtifactOf a := by
  obtain ⟨v, hbody⟩ := bodyOf_ok_of_errcode_zero h hcode
  have hcap : s.srcLen.toNat ≤ s.params.srcCap := Nat.le_of_not_lt fun hlong => by
    rw [bodyOf_capSrc rfl hlong] at hbody
    cases hbody
  obtain rfl | rfl := hm
  · have hu : s.unitSize ≠ 0 := fun hu => by
      cases (bodyCompress_of_unitSize_zero hcap hu).symm.trans hbody
    obtain ⟨hext, hfit⟩ := State.deliverArtifact_eq_ok ((bodyCompress_rle_eq hcap hu).symm.trans hbody)
    cases (exec_compressRle_ok hcap hu hext hfit).symm.trans h
    exact ⟨_, State.outputIs_of_dst hlegal hfit rfl rfl, State.artifactOf_compressRle hext hu⟩
  · obtain ⟨hext, hfit⟩ := State.deliverArtifact_eq_ok ((bodyCompress_huf_eq hcap).symm.trans hbody)
    cases (exec_compressHuf_ok hcap hext hfit).symm.trans h
    refine ⟨compressHuf s.input s.extInput, ?_, State.artifactOf_compressHuf hext⟩
    rw [State.hufEncodeWrites_eq]
    exact State.outputIs_of_dst hlegal hfit rfl rfl

end Sys2Proof.Machine
end

section
open Sys2Proof Sys2Proof.Machine

/-- Settles O37: COMPRESS delivers an artifact that holds its input and extension, and EXTRACT delivers what an artifact
holds. -/
theorem extractInvertsCompress : Obligations.ExtractInvertsCompress := by
  intro m m' s t u hlegal hm hcomp hcode hsrc hcap hlegal' hdst hextCap
  obtain ⟨a, hout, x, hx, hdata⟩ := compress_delivers_artifact hlegal hm hcomp hcode
  obtain rfl := State.outputIs_unique hout hsrc
  have hfit : (extractedBytes x).length ≤ u.params.dstCap := hdata ▸ hdst
  have hext : s.extInput.length ≤ u.params.extCap := s.extInput_length.trans_le hextCap
  refine ⟨_, exec_extract_ok hcap hx hext hfit, rfl, hdata ▸ State.afterExtract_outputIs hlegal' hfit, ?_,
    fun i hi => ?_⟩
  · apply BitVec.eq_of_toNat_eq
    rw [State.afterExtract_extLen_toNat x hlegal' hext, State.extInput_length]
  · rw [State.afterExtract_ext_byte?, if_pos (s.extInput_length.symm ▸ hi), State.extInput_getElem? hi]

/-- Settles O31: the command delivers the artifact, whose bytes are no fewer than its runs. -/
theorem compressRleWritesArtifact : Obligations.CompressRleWritesArtifact := by
  rintro s ext out hlegal hcap hu hextLen rfl hext hout hfit
  rw [← artifactLine_rle] at hout
  subst hout
  have hruns := (length_runs_le_length_compressRle s.input s.unitSize.toNat s.extInput).trans hfit
  exact ⟨_, exec_compressRle_ok hcap hu ⟨hextLen, hext⟩ hfit, State.compressRle_frame rfl,
    State.outputIs_of_dst hlegal hfit rfl rfl, Nat.mod_eq_of_lt (hruns.trans_lt (dstCap_lt hlegal)),
    State.efficiency_toInt hlegal hcap hfit⟩

/-- Settles O32: the command delivers the artifact, and the tables are those of the built tree. -/
theorem compressHufWritesArtifact : Obligations.CompressHufWritesArtifact := by
  rintro s ext out hlegal hcap hextLen rfl hext hout hfit
  rw [← artifactLine_huf] at hout
  subst hout
  obtain ⟨-, hsrc, -⟩ := (Params.legal_iff _).mp hlegal
  refine ⟨_, exec_compressHuf_ok hcap ⟨hextLen, hext⟩ hfit, State.compressHuf_frame rfl, ?_⟩
  rw [State.hufEncodeWrites_eq]
  refine ⟨State.outputIs_of_dst hlegal hfit rfl rfl, toNat_ofNat_pad (hufEncodeBody_pad_le s.input),
    freqTable_entry s.input (s.input_length ▸ hcap.trans hsrc), ?_, fun t0 ht => ?_,
    State.efficiency_toInt hlegal hcap hfit⟩
  · exact (toNat_leafCount_word (buildTree s.input)).trans (leafCount_buildTree s.input)
  · rw [ht]
    exact ⟨rfl, rfl⟩

/-- Settles O33: line 1 ends at the first CRLF, and the body has a byte or more for each count but one. -/
theorem extractRleWritesDataAndExtension : Obligations.ExtractRleWritesDataAndExtension := by
  intro m s ext body runs n hlegal hcap hinp hline hdec hext hfit
  rw [← artifactLine_rle] at hinp
  obtain ⟨-, hsrc, -⟩ := (Params.legal_iff _).mp hlegal
  have hx : extractOne s.input = .ok (.rle runs n, ext) :=
    hinp ▸ extractOne_artifact (.inl rfl) hline (extractBody_rle hdec)
  have hn : n < 2 ^ 32 := by
    have hcount := count_le_of_rleDecodeBody hdec
    have hlen := congrArg List.length hinp
    rw [State.input_length, List.length_append] at hlen
    omega
  exact ⟨_, exec_extract_ok hcap hx hext hfit, State.afterExtract_rle_frame rfl,
    State.afterExtract_outputIs hlegal hfit, Nat.mod_eq_of_lt hn, State.afterExtract_extLen_toNat _ hlegal hext,
    State.afterExtract_ext_byte? s _ ext⟩

/-- Settles O34: line 1 ends at the first CRLF, and PAD and NLEAF hold what the body decodes to. -/
theorem extractHufWritesDataAndExtension : Obligations.ExtractHufWritesDataAndExtension := by
  intro m s ext body out tree pad hlegal hcap hinp hline hdec hext hfit
  rw [← artifactLine_huf] at hinp
  obtain ⟨-, hpad⟩ := hufDecodeBody_ok hdec
  have hx : extractOne s.input = .ok (.huf out tree pad, ext) :=
    hinp ▸ extractOne_artifact (.inr rfl) hline (extractBody_huf hdec)
  exact ⟨_, exec_extract_ok hcap hx hext hfit, State.afterExtract_huf_frame rfl,
    State.afterExtract_outputIs hlegal hfit, toNat_ofNat_pad hpad, toNat_leafCount_word tree,
    State.afterExtract_extLen_toNat _ hlegal hext, State.afterExtract_ext_byte? s _ ext⟩

/-- Settles O35: the body raises in each case, and a body that raises leaves the failure write set of its METHOD. -/
theorem compressConfigErrors : Obligations.CompressConfigErrors := by
  refine ⟨fun m s hcap hm => ?_, fun s hcap hu => ?_, fun s hcap hbad => ?_,
    fun s ext hcap hextLen hext hbytes => ?_⟩
  · obtain rfl | rfl := hm
    · exact exec_of_error (i := .compress 2#2) (bodyCompress_of_bad_method hcap (by decide) (by decide))
    · exact exec_of_error (i := .compress 3#2) (bodyCompress_of_bad_method hcap (by decide) (by decide))
  · exact exec_of_error (i := .compress 0#2) (bodyCompress_of_unitSize_zero hcap hu)
  · have hext := State.not_extAllowed hbad
    refine ⟨fun hu => ?_, ?_⟩
    · exact exec_of_error (i := .compress 0#2)
        ((bodyCompress_rle_eq hcap hu).trans (State.deliverArtifact_cfgExt _ _ hext))
    · exact failsWith_of_error (i := .compress 1#2)
        ((bodyCompress_huf_eq hcap).trans (State.deliverArtifact_cfgExt _ _ hext))
  · subst hext
    refine ⟨fun hu hlong => ?_, fun hlong => ?_⟩
    · exact failsWith_of_error (i := .compress 0#2)
        ((bodyCompress_rle_eq hcap hu).trans (State.deliverArtifact_capDst _ ⟨hextLen, hbytes⟩ hlong))
    · exact failsWith_of_error (i := .compress 1#2)
        ((bodyCompress_huf_eq hcap).trans (State.deliverArtifact_capDst _ ⟨hextLen, hbytes⟩ hlong))

/-- Settles O36: each check raises once those before it have passed, and the failure column is that of the tag. -/
theorem extractLineErrors : Obligations.ExtractLineErrors := by
  refine fun m s hcap => ⟨fun hrle hhuf => ?_, ?_⟩
  · have htag : ¬IsTag (s.input.take 3) := not_or.mpr ⟨hrle, hhuf⟩
    have hexec := exec_of_error (i := .extract m) (bodyExtract_of_error hcap (extractOne_of_unknown_tag htag))
    rwa [failOf, State.failExtract_of_not_isTag (State.not_isTag_srcTag hcap htag)] at hexec
  · rintro tag col hcol rfl
    have htag : IsTag (s.input.take 3) := hcol.imp And.left And.left
    refine ⟨fun hnone => ?_, fun line1 body hline => ⟨fun hcomma => ?_, fun hcomma => ?_⟩⟩
    · exact extract_failedWith_of_error hcap hcol (bodyExtract_of_error hcap (extractOne_of_no_crlf htag hnone))
    · exact extract_failedWith_of_error hcap hcol
        (bodyExtract_of_error hcap (extractOne_of_no_comma htag hline hcomma))
    · have hone := extractOne_of_line htag hline hcomma
      refine ⟨fun c hbody => ?_, fun x hbody => ?_⟩ <;> rw [hbody] at hone
      · exact extract_failedWith_of_error hcap hcol (bodyExtract_of_error hcap hone)
      · rw [← List.length_drop]
        refine ⟨fun hlong => ?_, fun hext hlong => ?_⟩
        · exact extract_failedWith_of_error hcap hcol (bodyExtract_capExt hcap hone hlong)
        · exact extract_failedWith_of_error hcap hcol (bodyExtract_capDst hcap hone hext hlong)

/-- Settles O5: the turn of the block raises CMD_ILLEGAL, at the step where no event is left and at a `.block` event. -/
theorem illegalOpcodeEndsInCommandError : Obligations.IllegalOpcodeEndsInCommandError := by
  refine fun s hbusy hillegal => ⟨fun hev => ?_, fun rest hev => ?_⟩
  · exact ⟨_, (step_of_no_events hev).trans (blockTurn_illegal hbusy hillegal), rfl⟩
  · exact ⟨_, (step_block hev).trans (blockTurn_illegal hbusy hillegal), rfl⟩
end

section
/-! ## Reset, and where a step stops -/

namespace Sys2Proof.Machine

/-! ### The soft reset -/

/-- SRST resets the block whatever the other bits of the write are (R281). -/
theorem State.writeCtrl_srst {s : State} {v : Word} (hsrst : v.getLsbD 2 = true) : s.writeCtrl v = s.resetBlock :=
  if_pos hsrst

/-! ### The reset input -/

theorem step_resetInput {s : State} {level : Bool} {rest : List Event} (hev : s.events = .resetInput level :: rest) :
    step s = .next ({ s with events := rest }.driveReset level) :=
  stepState_cons hev

/-- A bus transaction while the reset input is asserted stops the model (R280). -/
theorem onBus_inReset {s : State} (t : State) (hreset : s.resetIn = true) : onBus s t = .fault .busInReset :=
  if_pos hreset

theorem step_read_inReset {s : State} {addr : Addr} {size : Size} {rest : List Event} (hreset : s.resetIn = true)
    (hev : s.events = .read addr size :: rest) : step s = .fault .busInReset :=
  (stepState_cons hev).trans (onBus_inReset _ hreset)

theorem step_write_inReset {s : State} {addr : Addr} {size : Size} {v : Word} {rest : List Event}
    (hreset : s.resetIn = true) (hev : s.events = .write addr size v :: rest) : step s = .fault .busInReset :=
  (stepState_cons hev).trans (onBus_inReset _ hreset)

/-! ### What answers a next state -/

/-- The turn of the block never stops: every error of a command is an effect (R250). -/
theorem blockTurn_total (s : State) : ∃ t, blockTurn s = .next t := by
  obtain ⟨-, h⟩ | ⟨i, -, -, h⟩ | ⟨e, -, -, h⟩ := blockTurn_cases s <;> rw [h]
  · exact ⟨s, rfl⟩
  · exact exec_total i s
  · exact ⟨_, rfl⟩

end Sys2Proof.Machine
end

section
open Sys2Proof Sys2Proof.Machine

/-- Settles O60: a turn of the block and an edge of the reset input answer a next state, and a bus access does where
the reset input is released. -/
theorem onlyBusAccessInResetStops : Obligations.OnlyBusAccessInResetStops := by
  intro s
  obtain ⟨hev, -⟩ | ⟨e, rest, hev, -⟩ := stepState_cases s
  · exact .inl ((blockTurn_total s).imp fun _ h => (step_of_no_events hev).trans h)
  · cases e with
    | read addr size =>
      cases hreset : s.resetIn with
      | false => exact .inl ⟨_, step_read hreset hev⟩
      | true => exact .inr ⟨step_read_inReset hreset hev, rfl, rest, .inl ⟨addr, size, hev⟩⟩
    | write addr size v =>
      cases hreset : s.resetIn with
      | false => exact .inl ⟨_, step_write hreset hev⟩
      | true => exact .inr ⟨step_write_inReset hreset hev, rfl, rest, .inr ⟨addr, size, v, hev⟩⟩
    | block => exact .inl ((blockTurn_total _).imp fun _ h => (step_block hev).trans h)
    | resetInput level => exact .inl ⟨_, step_resetInput hev⟩

/-- Settles O52: the write to CTRL is `resetBlock`, in IDLE and in BUSY. -/
theorem softResetSetsResetValues : Obligations.SoftResetSetsResetValues := by
  intro s v rest hreset hsrst hev
  exact ⟨_, step_writeCtrl hreset hev (State.writeCtrl_srst hsrst), rfl⟩

/-- Settles O53: the edge is `resetBlock` with the input asserted, so the block is IDLE at its next turn and the bus
closed to the next access. -/
theorem hardwareResetAbandonsCommand : Obligations.HardwareResetAbandonsCommand := by
  intro s rest hev
  refine ⟨_, step_resetInput hev, rfl, rfl, fun hnil => ?_, fun more => ⟨fun hblock => ?_, fun addr size hread => ?_,
    fun addr size v hwrite => ?_, fun hrelease => ?_⟩⟩
  · exact (step_of_no_events hnil).trans (blockTurn_idle rfl)
  · exact (step_block hblock).trans (blockTurn_idle rfl)
  · exact step_read_inReset rfl hread
  · exact step_write_inReset rfl hwrite
  · exact (step_resetInput hrelease).trans rfl
end
